-- ==== Sys2Proof/Word.lean ====
section
/-! DEFINITION. The words of the GF173 Field Element Engine: bytes, port words, window offsets,
field elements and 345-bit products (00_scope R8, R9, R12, R14). -/

namespace Sys2Proof

/-- A character of the text buffer (10_state R24). -/
abbrev Byte := BitVec 8

/-- A word of the host port, DATA_W = 32 bits; also a command word (00_scope R12, 30_encoding R80). -/
abbrev Word32 := BitVec 32

/-- A byte offset in the 4 KiB window, ADDR_W = 12 bits (00_scope R12). -/
abbrev Offset := BitVec 12

/-- An element of GF(2^173): bit k is the coefficient of x^k (00_scope R8, R14). -/
abbrev Element := BitVec 173

/-- An unreduced product, 2·173 − 1 = 345 bits (00_scope R9). -/
abbrev Product := BitVec 345

/-- The index of an element register, NREG = 16; every value is valid (00_scope R10, 30_encoding R82). -/
abbrev RegIx := Fin 16

end Sys2Proof
end

