-- ==== Sys2Proof/Config.lean ====
section
/-! DEFINITION. What is fixed for the machine (00_scope A4: the reduction polynomial, the ID word, the
text capacity) and what the spec leaves open: constants without a body that no proof can evaluate. -/

namespace Sys2Proof.Config

/-- The 174-bit pattern of f(x) = x^173 + x^10 + x^2 + x + 1, hardwired (00_scope R3). -/
def poly : BitVec 174 := BitVec.ofNat 174 (2 ^ 173 + 2 ^ 10 + 2 ^ 2 + 2 ^ 1 + 2 ^ 0)

/-- The multiplicative identity ONE, "only bit 0 set" (00_scope R16). -/
def one : Element := 1

/-- The ID register's constant: K1, K2, K3 and M, the exponents of f (10_state R27). -/
def idWord : Word32 := (1 : BitVec 8) ++ (2 : BitVec 8) ++ (10 : BitVec 8) ++ (173 : BitVec 8)

/-- TXT_CAP, the capacity of the text buffer in bytes (00_scope R11). -/
def txtCap : Nat := 256

/-- The largest shift of WXOR (30_encoding R83). -/
def maxShift : Nat := 172

/-- OPEN: the 4 KiB page the platform puts the window at (00_scope R12, 93 U3). -/
opaque gfPage : Nat

/-- GF_BASE, a multiple of 0x1000 (20_memory R50). -/
def gfBase : Nat := gfPage * 0x1000

/-- Everything a command can take as an operand: the element registers, W, TXT and TLEN (30_encoding R84,
10_state R38). The free values below may depend on it. -/
structure Operands where
  f : Vector Element 16
  w : Product
  txt : List Host.Cell
  len : BitVec 9
  deriving DecidableEq, Repr

/-- FREE VALUE: what a host read returns while BUSY = 1 anywhere but at CMD, STATUS and ID (20_memory R62,
93 U1). It may depend on the draw, the offset, the pending word and the data. -/
opaque busyRead : Nat → Offset → Option Word32 → Operands → Word32

/-- FREE VALUE: LATENCY(cmd, operands), counted in the host events that are performed between the acceptance of a
command word and the engine's step (00_scope R13, 93 U2, 70_reset_and_hazards R251). It may depend on the draw, the
command word and the data it is accepted with. -/
opaque latency : Nat → Word32 → Operands → Nat

end Sys2Proof.Config
end

