-- ==== Sys2Proof/Syntax.lean ====
section
/-! DEFINITION. The commands, one constructor per row of spec/opcode_table.json (30_encoding R84), and the
assembler's pseudo-instructions (30_encoding R89). -/

namespace Sys2Proof

/-- A command with its operands. `rd` is the destination, `rs1` and `rs2` are the sources, `sh` is IMM8. -/
inductive Instr where
  | zero (rd : RegIx)
  | mov (rd rs1 : RegIx)
  | add (rd rs1 rs2 : RegIx)
  | mul (rd rs1 rs2 : RegIx)
  | sqr (rd rs1 : RegIx)
  | pow (rd rs1 rs2 : RegIx)
  | inv (rd rs1 : RegIx)
  | trace (rs1 : RegIx)
  | eq (rs1 rs2 : RegIx)
  | wclr
  | wxor (rs1 : RegIx) (sh : BitVec 8)
  | clmul (rs1 rs2 : RegIx)
  | spread (rs1 : RegIx)
  | red (rd : RegIx)
  | parseb (rd : RegIx)
  | parseh (rd : RegIx)
  | fmtb (rs1 : RegIx)
  | fmth (rs1 : RegIx)
  deriving DecidableEq, Repr

/-- The pseudo-instructions of the assembler (30_encoding R89). -/
inductive Pseudo where
  | sub (rd rs1 rs2 : RegIx)
  | neg (rd rs1 : RegIx)
  | clr (rd : RegIx)
  | nop
  | reduce (rd : RegIx)
  deriving DecidableEq, Repr

end Sys2Proof
end

