-- ==== Sys2Proof/Decode.lean ====
section
/-! DEFINITION. Command words: their fields (30_encoding R81), the decoder, total on all 2^32 words and
rejecting by name (R86, R87), the encoder, the (match, mask) table (R85), the expansion of the
pseudo-instructions (R89) and the assembler's syntax (R88). -/

namespace Sys2Proof

/-- The six fields of a command word (30_encoding R81). -/
structure Fields where
  op : BitVec 8
  rd : BitVec 4
  rs1 : BitVec 4
  rs2 : BitVec 4
  rsv : BitVec 4
  imm : BitVec 8
  deriving DecidableEq, Repr

/-- OP[31:24] RD[23:20] RS1[19:16] RS2[15:12] RSV[11:8] IMM8[7:0] (30_encoding R81). -/
def fieldsOf (c : Word32) : Fields where
  op := c.extractLsb' 24 8
  rd := c.extractLsb' 20 4
  rs1 := c.extractLsb' 16 4
  rs2 := c.extractLsb' 12 4
  rsv := c.extractLsb' 8 4
  imm := c.extractLsb' 0 8

/-- The word `{OP, RD, RS1, RS2, RSV, IMM8}` (30_encoding R81). -/
def wordOf (x : Fields) : Word32 := x.op ++ x.rd ++ x.rs1 ++ x.rs2 ++ x.rsv ++ x.imm

/-- The register a 4-bit field selects; all 16 values are valid (30_encoding R82). -/
def regOf (b : BitVec 4) : RegIx := b.toFin

/-- The 4-bit field that selects a register (30_encoding R82). -/
def bitsOf (r : RegIx) : BitVec 4 := BitVec.ofFin r

/-- Why a word is illegal: the three cases of 30_encoding R86. -/
inductive Illegal where
  /-- its OP is not in the opcode map -/
  | opcode
  /-- a field it does not use, or RSV, is non-zero -/
  | field
  /-- a WXOR with IMM8 > 172 -/
  | shift
  deriving DecidableEq, Repr

/-- What the decoder answers (30_encoding R87: `Command | Illegal`). -/
inductive Decoded where
  | command (i : Instr)
  | illegal (why : Illegal)
  deriving DecidableEq, Repr

/-- The command, if every field it does not use is zero (30_encoding R85). -/
def whenUnusedZero (unusedZero : Bool) (i : Instr) : Decoded :=
  if unusedZero then .command i else .illegal .field

/-- The opcode map with the field-use constraint (30_encoding R84, R85) and WXOR's range check (R87). -/
def decodeFields (x : Fields) : Decoded :=
  match x.op.toNat with
  | 0x01 => whenUnusedZero (x.rs1 == 0 && x.rs2 == 0 && x.rsv == 0 && x.imm == 0) (.zero (regOf x.rd))
  | 0x02 => whenUnusedZero (x.rs2 == 0 && x.rsv == 0 && x.imm == 0) (.mov (regOf x.rd) (regOf x.rs1))
  | 0x10 => whenUnusedZero (x.rsv == 0 && x.imm == 0) (.add (regOf x.rd) (regOf x.rs1) (regOf x.rs2))
  | 0x11 => whenUnusedZero (x.rsv == 0 && x.imm == 0) (.mul (regOf x.rd) (regOf x.rs1) (regOf x.rs2))
  | 0x12 => whenUnusedZero (x.rs2 == 0 && x.rsv == 0 && x.imm == 0) (.sqr (regOf x.rd) (regOf x.rs1))
  | 0x13 => whenUnusedZero (x.rsv == 0 && x.imm == 0) (.pow (regOf x.rd) (regOf x.rs1) (regOf x.rs2))
  | 0x14 => whenUnusedZero (x.rs2 == 0 && x.rsv == 0 && x.imm == 0) (.inv (regOf x.rd) (regOf x.rs1))
  | 0x15 => whenUnusedZero (x.rd == 0 && x.rs2 == 0 && x.rsv == 0 && x.imm == 0) (.trace (regOf x.rs1))
  | 0x16 => whenUnusedZero (x.rd == 0 && x.rsv == 0 && x.imm == 0) (.eq (regOf x.rs1) (regOf x.rs2))
  | 0x20 => whenUnusedZero (x.rd == 0 && x.rs1 == 0 && x.rs2 == 0 && x.rsv == 0 && x.imm == 0) .wclr
  | 0x21 =>
    if x.rd == 0 && x.rs2 == 0 && x.rsv == 0 then
      if x.imm.toNat ≤ Config.maxShift then .command (.wxor (regOf x.rs1) x.imm) else .illegal .shift
    else .illegal .field
  | 0x22 => whenUnusedZero (x.rd == 0 && x.rsv == 0 && x.imm == 0) (.clmul (regOf x.rs1) (regOf x.rs2))
  | 0x23 => whenUnusedZero (x.rd == 0 && x.rs2 == 0 && x.rsv == 0 && x.imm == 0) (.spread (regOf x.rs1))
  | 0x24 => whenUnusedZero (x.rs1 == 0 && x.rs2 == 0 && x.rsv == 0 && x.imm == 0) (.red (regOf x.rd))
  | 0x30 => whenUnusedZero (x.rs1 == 0 && x.rs2 == 0 && x.rsv == 0 && x.imm == 0) (.parseb (regOf x.rd))
  | 0x31 => whenUnusedZero (x.rs1 == 0 && x.rs2 == 0 && x.rsv == 0 && x.imm == 0) (.parseh (regOf x.rd))
  | 0x32 => whenUnusedZero (x.rd == 0 && x.rs2 == 0 && x.rsv == 0 && x.imm == 0) (.fmtb (regOf x.rs1))
  | 0x33 => whenUnusedZero (x.rd == 0 && x.rs2 == 0 && x.rsv == 0 && x.imm == 0) (.fmth (regOf x.rs1))
  | _ => .illegal .opcode

/-- The decoder, total on all words (30_encoding R87). -/
def decode (c : Word32) : Decoded := decodeFields (fieldsOf c)

/-- The fields of a command: its opcode, its operands, and zero in every field it does not use
(30_encoding R84, R85). -/
def fieldsOfInstr : Instr → Fields
  | .zero rd => ⟨0x01, bitsOf rd, 0, 0, 0, 0⟩
  | .mov rd rs1 => ⟨0x02, bitsOf rd, bitsOf rs1, 0, 0, 0⟩
  | .add rd rs1 rs2 => ⟨0x10, bitsOf rd, bitsOf rs1, bitsOf rs2, 0, 0⟩
  | .mul rd rs1 rs2 => ⟨0x11, bitsOf rd, bitsOf rs1, bitsOf rs2, 0, 0⟩
  | .sqr rd rs1 => ⟨0x12, bitsOf rd, bitsOf rs1, 0, 0, 0⟩
  | .pow rd rs1 rs2 => ⟨0x13, bitsOf rd, bitsOf rs1, bitsOf rs2, 0, 0⟩
  | .inv rd rs1 => ⟨0x14, bitsOf rd, bitsOf rs1, 0, 0, 0⟩
  | .trace rs1 => ⟨0x15, 0, bitsOf rs1, 0, 0, 0⟩
  | .eq rs1 rs2 => ⟨0x16, 0, bitsOf rs1, bitsOf rs2, 0, 0⟩
  | .wclr => ⟨0x20, 0, 0, 0, 0, 0⟩
  | .wxor rs1 sh => ⟨0x21, 0, bitsOf rs1, 0, 0, sh⟩
  | .clmul rs1 rs2 => ⟨0x22, 0, bitsOf rs1, bitsOf rs2, 0, 0⟩
  | .spread rs1 => ⟨0x23, 0, bitsOf rs1, 0, 0, 0⟩
  | .red rd => ⟨0x24, bitsOf rd, 0, 0, 0, 0⟩
  | .parseb rd => ⟨0x30, bitsOf rd, 0, 0, 0, 0⟩
  | .parseh rd => ⟨0x31, bitsOf rd, 0, 0, 0, 0⟩
  | .fmtb rs1 => ⟨0x32, 0, bitsOf rs1, 0, 0, 0⟩
  | .fmth rs1 => ⟨0x33, 0, bitsOf rs1, 0, 0, 0⟩

/-- The word of a command. -/
def encode (i : Instr) : Word32 := wordOf (fieldsOfInstr i)

/-- A word numbered as spec/opcode_table.json numbers it: its `nbits` low bits, zero above. A command is
one 32-bit word of the port (30_encoding R80), so no bytes are laid out in memory. -/
def tableWord (nbits w : Nat) : Word32 := BitVec.ofNat 32 (w % 2 ^ nbits)

/-- The instruction the decoder reads from a table word, none where the word is illegal. -/
def decodeTableWord (nbits w : Nat) : Option Instr :=
  match decode (tableWord nbits w) with
  | .command i => some i
  | .illegal _ => none

/-- The mnemonic of a command, as spec/opcode_table.json spells it. -/
def mnemonic : Instr → String
  | .zero _ => "ZERO"
  | .mov _ _ => "MOV"
  | .add _ _ _ => "ADD"
  | .mul _ _ _ => "MUL"
  | .sqr _ _ => "SQR"
  | .pow _ _ _ => "POW"
  | .inv _ _ => "INV"
  | .trace _ => "TRACE"
  | .eq _ _ => "EQ"
  | .wclr => "WCLR"
  | .wxor _ _ => "WXOR"
  | .clmul _ _ => "CLMUL"
  | .spread _ => "SPREAD"
  | .red _ => "RED"
  | .parseb _ => "PARSEB"
  | .parseh _ => "PARSEH"
  | .fmtb _ => "FMTB"
  | .fmth _ => "FMTH"

/-- A row of the (match, mask) table (30_encoding R85). -/
structure Row where
  mnemonic : String
  pattern : Word32
  mask : Word32
  deriving DecidableEq, Repr

/-- The (match, mask) pairs, row by row as 30_encoding R85 gives them. -/
def opcodeRows : List Row :=
  [⟨"ZERO", 0x01000000, 0xFF0FFFFF⟩, ⟨"MOV", 0x02000000, 0xFF00FFFF⟩,
   ⟨"ADD", 0x10000000, 0xFF000FFF⟩, ⟨"MUL", 0x11000000, 0xFF000FFF⟩,
   ⟨"SQR", 0x12000000, 0xFF00FFFF⟩, ⟨"POW", 0x13000000, 0xFF000FFF⟩,
   ⟨"INV", 0x14000000, 0xFF00FFFF⟩, ⟨"TRACE", 0x15000000, 0xFFF0FFFF⟩,
   ⟨"EQ", 0x16000000, 0xFFF00FFF⟩, ⟨"WCLR", 0x20000000, 0xFFFFFFFF⟩,
   ⟨"WXOR", 0x21000000, 0xFFF0FF00⟩, ⟨"CLMUL", 0x22000000, 0xFFF00FFF⟩,
   ⟨"SPREAD", 0x23000000, 0xFFF0FFFF⟩, ⟨"RED", 0x24000000, 0xFF0FFFFF⟩,
   ⟨"PARSEB", 0x30000000, 0xFF0FFFFF⟩, ⟨"PARSEH", 0x31000000, 0xFF0FFFFF⟩,
   ⟨"FMTB", 0x32000000, 0xFFF0FFFF⟩, ⟨"FMTH", 0x33000000, 0xFFF0FFFF⟩]

/-- `c` is the row's command: `c & mask = match`, and for WXOR IMM8 ≤ 172 (30_encoding R85). -/
def rowMatches (c : Word32) (row : Row) : Bool :=
  c &&& row.mask == row.pattern && (row.mnemonic != "WXOR" || decide ((c.extractLsb' 0 8).toNat ≤ Config.maxShift))

/-- The expansion of a pseudo-instruction (30_encoding R89). -/
def expand : Pseudo → Instr
  | .sub rd rs1 rs2 => .add rd rs1 rs2
  | .neg rd rs1 => .mov rd rs1
  | .clr rd => .zero rd
  | .nop => .mov 0 0
  | .reduce rd => .red rd

/-- The assembler name of an element register, `f0` to `f15` (30_encoding R88). -/
def regName (r : RegIx) : String := "f" ++ toString r.val

/-- The assembler line of a command: its mnemonic and its operands in the order of 30_encoding R88, the
immediate in decimal. -/
def asm : Instr → String
  | .zero rd => "zero " ++ regName rd
  | .mov rd rs1 => "mov " ++ regName rd ++ ", " ++ regName rs1
  | .add rd rs1 rs2 => "add " ++ regName rd ++ ", " ++ regName rs1 ++ ", " ++ regName rs2
  | .mul rd rs1 rs2 => "mul " ++ regName rd ++ ", " ++ regName rs1 ++ ", " ++ regName rs2
  | .sqr rd rs1 => "sqr " ++ regName rd ++ ", " ++ regName rs1
  | .pow rd rs1 rs2 => "pow " ++ regName rd ++ ", " ++ regName rs1 ++ ", " ++ regName rs2
  | .inv rd rs1 => "inv " ++ regName rd ++ ", " ++ regName rs1
  | .trace rs1 => "trace " ++ regName rs1
  | .eq rs1 rs2 => "eq " ++ regName rs1 ++ ", " ++ regName rs2
  | .wclr => "wclr"
  | .wxor rs1 sh => "wxor " ++ regName rs1 ++ ", " ++ toString sh.toNat
  | .clmul rs1 rs2 => "clmul " ++ regName rs1 ++ ", " ++ regName rs2
  | .spread rs1 => "spread " ++ regName rs1
  | .red rd => "red " ++ regName rd
  | .parseb rd => "parseb " ++ regName rd
  | .parseh rd => "parseh " ++ regName rd
  | .fmtb rs1 => "fmtb " ++ regName rs1
  | .fmth rs1 => "fmth " ++ regName rs1

end Sys2Proof
end

