-- ==== Sys2Proof/Machine/State.lean ====
section
/-! DEFINITION. The state of the engine (10_state R38), what arrives at its pins, its reset (R39), and the
reasons a step can stop. Plain data throughout. -/

namespace Sys2Proof.Machine

/-- The text buffer TXT (10_state R24), the block's only byte-addressed storage: (index, byte) pairs, indices
strictly rising, no pair equal to what an unlisted index reads as (0x00, the reset content, R39). -/
abbrev Memory := List Host.Cell

/-- The canonical form of the text buffer; its indices are below TXT_CAP. -/
abbrev Memory.wf (m : Memory) : Prop :=
  m.Pairwise (fun a b => a.1 < b.1) ∧ ∀ c ∈ m, c.2 ≠ 0x00 ∧ c.1 < Config.txtCap

/-- The width of a bus access in bits. The port supports 32 only (20_memory R51). -/
inductive AccessWidth where
  | bits8
  | bits16
  | bits32
  | bits64
  deriving DecidableEq, Repr

/-- A host access: a read, or a write of a word (20_memory R60, R61). The data of a write that is not 32 bits
wide is not held, since such an access is refused. -/
inductive BusOp where
  | read
  | write (v : Word32)
  deriving DecidableEq, Repr

/-- What can arrive at the block's pins: a host access at a system byte address (20_memory R50), or a new level of
the reset input (70_reset_and_hazards R240). -/
inductive Event where
  | access (width : AccessWidth) (addr : Nat) (op : BusOp)
  | resetLevel (asserted : Bool)
  deriving DecidableEq, Repr

/-- What the port answers an access: a word, Ok, or a bus error (20_memory R52, R60, R61). -/
inductive Response where
  | data (v : Word32)
  | ok
  | busError
  deriving DecidableEq, Repr

/-- The errors a command can complete with (60_exceptions R211). -/
inductive CmdError where
  | binChar
  | binLen
  | hexChar
  | hexLen
  | txtRange
  | domain
  | illegal
  | traceCheck
  deriving DecidableEq, Repr

/-- The state. The first group is the architectural state of 10_state R38, the second is the level of the reset
input and the model's own fields. -/
structure State where
  /-- F[0..15] (10_state R20) -/
  f : Vector Element 16
  /-- the product accumulator W (10_state R23) -/
  w : Product
  /-- the text buffer TXT[0..255] (10_state R24) -/
  txt : Memory
  /-- TLEN.LEN (10_state R35) -/
  len : BitVec 9
  /-- the last accepted command word (10_state R26) -/
  lastcmd : Word32
  /-- the pending command word, present exactly while BUSY = 1 (10_state R29, R36) -/
  pend : Option Word32
  /-- STATUS.TR (10_state R30) -/
  trFlag : Bool
  /-- STATUS.EQ (10_state R31) -/
  eqFlag : Bool
  /-- STATUS.ERR (10_state R32) -/
  err : BitVec 4
  /-- STATUS.STICKY (10_state R33) -/
  sticky : Bool
  /-- STATUS.OVERRUN (10_state R34) -/
  overrun : Bool
  /-- the reset input is asserted (70_reset_and_hazards R240) -/
  inReset : Bool
  /-- MODEL: the events still to arrive, oldest first (20_memory R63) -/
  inbox : List Event
  /-- MODEL: how many events are still performed before the pending command's engine step
  (70_reset_and_hazards R251) -/
  wait : Nat
  /-- MODEL: how many free values have been drawn -/
  draws : Nat
  /-- MODEL: the port's answer to the last host access -/
  resp : Option Response
  deriving DecidableEq, Repr

/-- STATUS.BUSY: 1 exactly while a command is pending (10_state R29). -/
def State.busy (s : State) : Bool := s.pend.isSome

/-- The machine right after reset (10_state R39, 70_reset_and_hazards R240). -/
def State.reset : State where
  f := Vector.replicate 16 0
  w := 0
  txt := []
  len := 0
  lastcmd := 0
  pend := none
  trFlag := false
  eqFlag := false
  err := 0
  sticky := false
  overrun := false
  inReset := false
  inbox := []
  wait := 0
  draws := 0
  resp := none

/-- The machine stops with a fault. No command raises one. -/
inductive Fault where
  /-- A host access at an address outside the window, which this block does not have (20_memory R50). Raised by
  `performAccess`. Safe: the model stops where another device of the system answers. -/
  | outsideWindow
  deriving DecidableEq, Repr

/-- The model gives no next state. No command is refused. -/
inductive Refusal where
  /-- An instruction without a meaning in `exec`. No arm answers it. Safe. -/
  | notModelled (mnemonic : String)
  /-- An access of the window that is not 32 bits wide: "the model refuses such an access" (20_memory R51). Raised by
  `performAccess`. Safe. -/
  | unsupportedWidth
  /-- A host access while reset is asserted: "a model refuses it" (70_reset_and_hazards R240). Raised by
  `performAccess`. Safe. -/
  | accessDuringReset
  deriving DecidableEq, Repr

end Sys2Proof.Machine
end

