-- ==== Sys2Proof/Machine/Ops.lean ====
section
/-! DEFINITION. The shared operations: bytes of the text buffer, element registers, the accumulator, the words of
the register window's multi-word values, and the two ends of a command, `complete()` and `raise CmdError`
(60_exceptions R212, R213). -/

namespace Sys2Proof.Machine

/-- What an unlisted byte of TXT reads as: 0x00, the reset content (10_state R24, R39). -/
def unlistedByte : Byte := 0x00

/-- TXT[k]. -/
def readByte : Memory → Nat → Byte
  | [], _ => unlistedByte
  | c :: m, k => if c.1 = k then c.2 else readByte m k

/-- Put a pair in its place by rising index. -/
def insertCell (k : Nat) (v : Byte) : Memory → Memory
  | [] => [(k, v)]
  | c :: m => if k < c.1 then (k, v) :: c :: m else c :: insertCell k v m

/-- Forget what is listed at an index. -/
def eraseByte (m : Memory) (k : Nat) : Memory := m.filter (fun c => c.1 ≠ k)

/-- TXT[k] <- v, keeping the canonical form. -/
def writeByte (m : Memory) (k : Nat) (v : Byte) : Memory :=
  if v = unlistedByte then eraseByte m k else insertCell k v (eraseByte m k)

/-- TXT[k], TXT[k+1], … <- the bytes of a list. -/
def writeBytes (m : Memory) (k : Nat) : List Byte → Memory
  | [] => m
  | v :: vs => writeBytes (writeByte m k v) (k + 1) vs

/-- F[r] (00_scope R15). -/
def readF (s : State) (r : RegIx) : Element := s.f.get r

/-- F[r] <- v (00_scope R15). No register is hardwired (10_state R20). -/
def writeF (r : RegIx) (v : Element) (s : State) : State := { s with f := s.f.set r v }

/-- W <- v (00_scope R15). -/
def writeW (v : Product) (s : State) : State := { s with w := v }

/-- TXT[0..n-1] <- a string and TLEN.LEN <- n (10_state R24). -/
def writeString (str : List Byte) (s : State) : State :=
  { s with txt := writeBytes s.txt 0 str, len := BitVec.ofNat 9 str.length }

/-- The data a command word is accepted with, which LATENCY may depend on (00_scope R13). -/
def operands (s : State) : Config.Operands := { f := s.f, w := s.w, txt := s.txt, len := s.len }

/-- Word `k` of a multi-word value: bits 32k+31 … 32k, zero above the value's width (20_memory R54, R55, R57). -/
def getWord {n : Nat} (v : BitVec n) (k : Nat) : Word32 := v.extractLsb' (32 * k) 32

/-- Replace word `k` of a multi-word value; bits above the value's width are dropped (20_memory R56, R57). -/
def putWord {n : Nat} (v : BitVec n) (k : Nat) (x : Word32) : BitVec n :=
  (v &&& ~~~((0xFFFFFFFF : Word32).setWidth n <<< (32 * k))) ||| (x.setWidth n <<< (32 * k))

/-- The four characters of a TXT word, byte lane 0 first (20_memory R54, R58). -/
def bytesOfWord (v : Word32) : List Byte :=
  [v.extractLsb' 0 8, v.extractLsb' 8 8, v.extractLsb' 16 8, v.extractLsb' 24 8]

/-- The TXT word of four characters, byte lane 0 first (20_memory R54, R58). -/
def wordOfBytes (b0 b1 b2 b3 : Byte) : Word32 := b3 ++ b2 ++ b1 ++ b0

/-- The 4-bit code of an error (60_exceptions R211). -/
def errorCode : CmdError → BitVec 4
  | .binChar => 1
  | .binLen => 2
  | .hexChar => 3
  | .hexLen => 4
  | .txtRange => 5
  | .domain => 6
  | .illegal => 7
  | .traceCheck => 8

/-- `complete()`: ERR <- 0 and BUSY <- 0, after the command's own writes (60_exceptions R213). -/
def complete (s : State) : State := { s with err := 0, pend := none }

/-- `raise CmdError(code)`: ERR <- code, STICKY <- 1, BUSY <- 0, nothing else (60_exceptions R212). This is the
block's whole error entry: no state is saved and no control is transferred, so there is no return (R216). -/
def raiseCmdError (e : CmdError) (s : State) : State :=
  { s with err := errorCode e, sticky := true, pend := none }

end Sys2Proof.Machine
end

