-- ==== Sys2Proof/Machine/Addition.lean ====
section
/-! DEFINITION. ADD (41_addition R110). -/

namespace Sys2Proof.Machine

/-- ADD: F[RD] <- F[RS1] ^ F[RS2] (41_addition R110). -/
def execAdd (rd rs1 rs2 : RegIx) (s : State) : Host.Outcome State Fault Refusal :=
  .next (complete (writeF rd (readF s rs1 ^^^ readF s rs2) s))

end Sys2Proof.Machine
end

