-- ==== Sys2Proof/Machine/Construct.lean ====
section
/-! DEFINITION. ZERO and MOV (40_construction R100, R101). -/

namespace Sys2Proof.Machine

/-- ZERO: F[RD] <- 0 (40_construction R100). -/
def execZero (rd : RegIx) (s : State) : Host.Outcome State Fault Refusal :=
  .next (complete (writeF rd 0 s))

/-- MOV: F[RD] <- F[RS1] (40_construction R101). -/
def execMov (rd rs1 : RegIx) (s : State) : Host.Outcome State Fault Refusal :=
  .next (complete (writeF rd (readF s rs1) s))

end Sys2Proof.Machine
end

