-- ==== Sys2Proof/Machine/Flags.lean ====
section
/-! DEFINITION. The STATUS register (10_state R28): its word, its write-1-to-clear bits, and the two result flags. -/

namespace Sys2Proof.Machine

/-- STATUS as a host reads it: {OVERRUN, STICKY, ERR[3:0], 0, EQ, TR, BUSY}, zero above (10_state R28,
20_memory R60). -/
def statusWord (s : State) : Word32 :=
  (BitVec.ofBool s.overrun ++ BitVec.ofBool s.sticky ++ s.err ++ (0 : BitVec 1) ++ BitVec.ofBool s.eqFlag ++
    BitVec.ofBool s.trFlag ++ BitVec.ofBool s.busy : BitVec 10).setWidth 32

/-- A host write to STATUS: bit 8 clears STICKY, bit 9 clears OVERRUN, nothing else (10_state R28). -/
def clearStatus (v : Word32) (s : State) : State :=
  { s with sticky := s.sticky && !v.getLsbD 8, overrun := s.overrun && !v.getLsbD 9 }

/-- STATUS.TR <- b (10_state R30). -/
def setTr (b : Bool) (s : State) : State := { s with trFlag := b }

/-- STATUS.EQ <- b (10_state R31). -/
def setEq (b : Bool) (s : State) : State := { s with eqFlag := b }

/-- A dropped write: OVERRUN <- 1 (10_state R34). -/
def setOverrun (s : State) : State := { s with overrun := true }

end Sys2Proof.Machine
end

