-- ==== Sys2Proof/Machine/Equality.lean ====
section
/-! DEFINITION. EQ (48_equality R200). -/

namespace Sys2Proof.Machine

/-- EQ: STATUS.EQ <- 1 when the operands are bit-identical, else 0 (48_equality R200). -/
def execEq (rs1 rs2 : RegIx) (s : State) : Host.Outcome State Fault Refusal :=
  .next (complete (setEq (readF s rs1 == readF s rs2) s))

end Sys2Proof.Machine
end

