-- ==== Sys2Proof/Machine/Gf.lean ====
section
/-! DEFINITION. The polynomial primitives of 00_scope R16 and the loops of exponentiation, trace and inverse
(44_pow R150, 45_trace R160, 46_inverse R170), each as its state after n iterations. -/

namespace Sys2Proof.Machine

/-- Rows i = 0 … n−1 of the product: where b[i] = 1, a shifted by i is toggled into the accumulator (00_scope R16). -/
def clmulRows (a b : Element) : Nat → Product
  | 0 => 0
  | n + 1 => if b.getLsbD n then clmulRows a b n ^^^ (a.setWidth 345 <<< n) else clmulRows a b n

/-- `clmul`: the full, unreduced product (00_scope R16). -/
def clmul (a b : Element) : Product := clmulRows a b 173

/-- POLY << (i − 173) for i = 173 + n, in 345 bits (00_scope R16). -/
def polyShifted (n : Nat) : Product := Config.poly.setWidth 345 <<< n

/-- The reduction loop for i = 173 + n − 1 downto 173 (00_scope R16). -/
def reduceLoop : Nat → Product → Product
  | 0, p => p
  | n + 1, p => reduceLoop n (if p.getLsbD (173 + n) then p ^^^ polyShifted n else p)

/-- The working polynomial after the whole pass, i = 344 downto 173 (42_multiply_reduce R124). -/
def reduceInPlace (p : Product) : Product := reduceLoop 172 p

/-- `reduce`: the low 173 bits after the pass (00_scope R16). -/
def reduce (p : Product) : Element := (reduceInPlace p).setWidth 173

/-- Bits 0 … n−1 of an element at the even positions 0 … 2n−2 (00_scope R16). -/
def spreadBits (a : Element) : Nat → Product
  | 0 => 0
  | n + 1 => if a.getLsbD n then spreadBits a n ||| ((1 : Product) <<< (2 * n)) else spreadBits a n

/-- `spread`: s[2i] = a[i] and 0 elsewhere (00_scope R16). -/
def spread (a : Element) : Product := spreadBits a 173

/-- `mulred(a, b) = reduce(clmul(a, b))` (00_scope R16). -/
def mulred (a b : Element) : Element := reduce (clmul a b)

/-- `sqr(a) = reduce(spread(a))` (00_scope R16). -/
def sqr (a : Element) : Element := reduce (spread a)

/-- W ^ (zext(a) << sh) (42_multiply_reduce R122). -/
def xorShifted (w : Product) (a : Element) (sh : Nat) : Product := w ^^^ (a.setWidth 345 <<< sh)

/-- POW's (result, base) after the iterations i = 0 … n−1 (44_pow R150). -/
def powLoop (base e : Element) : Nat → Element × Element
  | 0 => (Config.one, base)
  | n + 1 =>
    let (result, b) := powLoop base e n
    (if e.getLsbD n then mulred result b else result, sqr b)

/-- `base` to the integer power `e`: 173 iterations (44_pow R150). -/
def power (base e : Element) : Element := (powLoop base e 173).1

/-- TRACE's (acc, t) after n squarings (45_trace R160). -/
def traceLoop (a : Element) : Nat → Element × Element
  | 0 => (a, a)
  | n + 1 =>
    let (acc, t) := traceLoop a n
    (acc ^^^ sqr t, sqr t)

/-- The trace accumulator: 172 squarings, 173 terms (45_trace R160, 90_conflicts C1). -/
def traceAcc (a : Element) : Element := (traceLoop a 172).1

/-- INV's (result, temp) after n iterations (46_inverse R170). -/
def invLoop (a : Element) : Nat → Element × Element
  | 0 => (a, a)
  | n + 1 =>
    let (result, temp) := invLoop a n
    (mulred result (sqr temp), sqr temp)

/-- a^(2^173 − 2): 171 iterations and a last squaring (46_inverse R170). -/
def inverse (a : Element) : Element := sqr (invLoop a 171).1

end Sys2Proof.Machine
end

