-- ==== Sys2Proof/Machine/Inverse.lean ====
section
/-! DEFINITION. INV (46_inverse R170, R173). -/

namespace Sys2Proof.Machine

/-- INV: DOMAIN on the zero element, with F[RD] unchanged; otherwise F[RD] <- a^(2^173 − 2)
(46_inverse R170, R173). -/
def execInv (rd rs1 : RegIx) (s : State) : Host.Outcome State Fault Refusal :=
  .next (if readF s rs1 = 0 then raiseCmdError .domain s else complete (writeF rd (inverse (readF s rs1)) s))

end Sys2Proof.Machine
end

