-- ==== Sys2Proof/Machine/Multiply.lean ====
section
/-! DEFINITION. MUL, WCLR, WXOR, CLMUL, RED (42_multiply_reduce R120 to R124). -/

namespace Sys2Proof.Machine

/-- MUL: F[RD] <- reduce(clmul(F[RS1], F[RS2])); W is not touched (42_multiply_reduce R120). -/
def execMul (rd rs1 rs2 : RegIx) (s : State) : Host.Outcome State Fault Refusal :=
  .next (complete (writeF rd (mulred (readF s rs1) (readF s rs2)) s))

/-- WCLR: W <- 0 (42_multiply_reduce R121). -/
def execWclr (s : State) : Host.Outcome State Fault Refusal :=
  .next (complete (writeW 0 s))

/-- WXOR: W <- W ^ (F[RS1] << IMM8) (42_multiply_reduce R122). A shift above 172 is ILLEGAL (30_encoding R86); the
decoder has already rejected such a word, so no run gets there. -/
def execWxor (rs1 : RegIx) (sh : BitVec 8) (s : State) : Host.Outcome State Fault Refusal :=
  .next (if sh.toNat ≤ Config.maxShift then complete (writeW (xorShifted s.w (readF s rs1) sh.toNat) s)
    else raiseCmdError .illegal s)

/-- CLMUL: W <- clmul(F[RS1], F[RS2]), overwritten (42_multiply_reduce R123). -/
def execClmul (rs1 rs2 : RegIx) (s : State) : Host.Outcome State Fault Refusal :=
  .next (complete (writeW (clmul (readF s rs1) (readF s rs2)) s))

/-- RED: the reduction pass in place; F[RD] and W get the remainder (42_multiply_reduce R124). -/
def execRed (rd : RegIx) (s : State) : Host.Outcome State Fault Refusal :=
  .next (complete (writeW (reduceInPlace s.w) (writeF rd (reduce s.w) s)))

end Sys2Proof.Machine
end

