-- ==== Sys2Proof/Machine/Pow.lean ====
section
/-! DEFINITION. POW (44_pow R150). -/

namespace Sys2Proof.Machine

/-- POW: F[RD] <- F[RS1] to the power F[RS2] read as an integer; no domain error (44_pow R150). -/
def execPow (rd rs1 rs2 : RegIx) (s : State) : Host.Outcome State Fault Refusal :=
  .next (complete (writeF rd (power (readF s rs1) (readF s rs2)) s))

end Sys2Proof.Machine
end

