-- ==== Sys2Proof/Machine/Square.lean ====
section
/-! DEFINITION. SQR and SPREAD (43_square R140, R141). -/

namespace Sys2Proof.Machine

/-- SQR: F[RD] <- reduce(spread(F[RS1])); W is not touched (43_square R140). -/
def execSqr (rd rs1 : RegIx) (s : State) : Host.Outcome State Fault Refusal :=
  .next (complete (writeF rd (sqr (readF s rs1)) s))

/-- SPREAD: W <- spread(F[RS1]), overwritten (43_square R141). -/
def execSpread (rs1 : RegIx) (s : State) : Host.Outcome State Fault Refusal :=
  .next (complete (writeW (spread (readF s rs1)) s))

end Sys2Proof.Machine
end

