-- ==== Sys2Proof/Machine/Operands.lean ====
section
/-! DEFINITION. The operand of a text command: the string TXT[0..LEN−1] (47_text R180) and the character codes
(47_text R183). Element operands are `readF` and `writeF`. -/

namespace Sys2Proof.Machine

/-- The length n = TLEN.LEN of the string operand (47_text R180). -/
def textLength (s : State) : Nat := s.len.toNat

/-- The string operand, TXT[0] first (47_text R180). -/
def textString (s : State) : List Byte := (List.range (textLength s)).map (readByte s.txt)

/-- '0' -/
def charZero : Byte := 0x30

/-- '1' -/
def charOne : Byte := 0x31

/-- A character of a binary string (47_text R184). -/
def isBinChar (c : Byte) : Bool := c == charZero || c == charOne

/-- '0'..'9', 'A'..'F' or 'a'..'f' (47_text R183). -/
def isHexDigit (c : Byte) : Bool :=
  decide (0x30 ≤ c.toNat ∧ c.toNat ≤ 0x39) || decide (0x41 ≤ c.toNat ∧ c.toNat ≤ 0x46) ||
    decide (0x61 ≤ c.toNat ∧ c.toNat ≤ 0x66)

/-- The value of a hexadecimal digit; upper and lower case alike (47_text R183). -/
def hexDigit (c : Byte) : Nat :=
  if c.toNat ≤ 0x39 then c.toNat - 0x30 else if c.toNat ≤ 0x46 then c.toNat - 0x41 + 10 else c.toNat - 0x61 + 10

/-- LOWERHEX: "0123456789abcdef"[nib] (47_text R187). -/
def lowerHex (nib : BitVec 4) : Byte :=
  if nib.toNat < 10 then BitVec.ofNat 8 (0x30 + nib.toNat) else BitVec.ofNat 8 (0x61 + (nib.toNat - 10))

/-- The value of a binary string: character k of n is bit n−1−k (47_text R184). -/
def binValue : List Byte → Element
  | [] => 0
  | c :: cs => (if c = charOne then (1 : Element) <<< cs.length else 0) ||| binValue cs

/-- The value of a hexadecimal string: v <- 16·v + digit, an unbounded integer (47_text R185). -/
def hexValue (cs : List Byte) : Nat := cs.foldl (fun v c => 16 * v + hexDigit c) 0

/-- The canonical binary string: 173 characters, bit 172 first (47_text R186). -/
def binString (a : Element) : List Byte :=
  (List.range 173).map (fun k => if a.getLsbD (172 - k) then charOne else charZero)

/-- The number of hexadecimal digits: ceil(L / 4), L one more than the index of the highest set bit (47_text R187). -/
def hexDigits (a : Element) : Nat := (a.toNat.log2 + 1 + 3) / 4

/-- The minimal hexadecimal string: "0" for zero, otherwise d digits, the highest nibble first (47_text R187). -/
def hexString (a : Element) : List Byte :=
  if a = 0 then [charZero]
  else (List.range (hexDigits a)).map (fun k => lowerHex ((a.setWidth 176).extractLsb' (4 * (hexDigits a - 1 - k)) 4))

end Sys2Proof.Machine
end

