-- ==== Sys2Proof/Machine/Text.lean ====
section
/-! DEFINITION. PARSEB, PARSEH, FMTB, FMTH (47_text R184 to R187). -/

namespace Sys2Proof.Machine

/-- PARSEB: TXT_RANGE, then BIN_LEN, then BIN_CHAR; otherwise F[RD] <- the string's bits (47_text R184). -/
def execParseb (rd : RegIx) (s : State) : Host.Outcome State Fault Refusal :=
  .next (if textLength s > Config.txtCap then raiseCmdError .txtRange s
    else if textLength s > 173 then raiseCmdError .binLen s
    else if (textString s).all isBinChar then complete (writeF rd (binValue (textString s)) s)
    else raiseCmdError .binChar s)

/-- PARSEH: TXT_RANGE, then HEX_CHAR, then HEX_LEN; otherwise F[RD] <- the string's value (47_text R185). -/
def execParseh (rd : RegIx) (s : State) : Host.Outcome State Fault Refusal :=
  .next (if textLength s > Config.txtCap then raiseCmdError .txtRange s
    else if (textString s).all isHexDigit then
      if hexValue (textString s) ≥ 2 ^ 173 then raiseCmdError .hexLen s
      else complete (writeF rd (BitVec.ofNat 173 (hexValue (textString s))) s)
    else raiseCmdError .hexChar s)

/-- FMTB: TXT[0..172] <- the binary string, LEN <- 173; later bytes unchanged (47_text R186). -/
def execFmtb (rs1 : RegIx) (s : State) : Host.Outcome State Fault Refusal :=
  .next (complete (writeString (binString (readF s rs1)) s))

/-- FMTH: TXT[0..d−1] <- the minimal hexadecimal string, LEN <- d; later bytes unchanged (47_text R187). -/
def execFmth (rs1 : RegIx) (s : State) : Host.Outcome State Fault Refusal :=
  .next (complete (writeString (hexString (readF s rs1)) s))

end Sys2Proof.Machine
end

