-- ==== Sys2Proof/Machine/Trace.lean ====
section
/-! DEFINITION. TRACE (45_trace R160) with its consistency check (R162). -/

namespace Sys2Proof.Machine

/-- TRACE: TR <- bit 0 of the accumulator, after checking that its bits 172 … 1 are zero; otherwise TRACE_CHECK with
TR unchanged (45_trace R160, R162). -/
def execTrace (rs1 : RegIx) (s : State) : Host.Outcome State Fault Refusal :=
  .next (if (traceAcc (readF s rs1)).extractLsb' 1 172 = 0 then complete (setTr ((traceAcc (readF s rs1)).getLsbD 0) s)
    else raiseCmdError .traceCheck s)

end Sys2Proof.Machine
end

