-- ==== Sys2Proof/Machine/Dispatch.lean ====
section
/-! DEFINITION. One arm per command (30_encoding R84). -/

namespace Sys2Proof.Machine

def exec (i : Instr) (s : State) : Host.Outcome State Fault Refusal :=
  match i with
  | .zero rd => Sys2Proof.Machine.execZero rd s
  | .mov rd rs1 => Sys2Proof.Machine.execMov rd rs1 s
  | .add rd rs1 rs2 => Sys2Proof.Machine.execAdd rd rs1 rs2 s
  | .mul rd rs1 rs2 => Sys2Proof.Machine.execMul rd rs1 rs2 s
  | .sqr rd rs1 => Sys2Proof.Machine.execSqr rd rs1 s
  | .pow rd rs1 rs2 => Sys2Proof.Machine.execPow rd rs1 rs2 s
  | .inv rd rs1 => Sys2Proof.Machine.execInv rd rs1 s
  | .trace rs1 => Sys2Proof.Machine.execTrace rs1 s
  | .eq rs1 rs2 => Sys2Proof.Machine.execEq rs1 rs2 s
  | .wclr => Sys2Proof.Machine.execWclr s
  | .wxor rs1 sh => Sys2Proof.Machine.execWxor rs1 sh s
  | .clmul rs1 rs2 => Sys2Proof.Machine.execClmul rs1 rs2 s
  | .spread rs1 => Sys2Proof.Machine.execSpread rs1 s
  | .red rd => Sys2Proof.Machine.execRed rd s
  | .parseb rd => Sys2Proof.Machine.execParseb rd s
  | .parseh rd => Sys2Proof.Machine.execParseh rd s
  | .fmtb rs1 => Sys2Proof.Machine.execFmtb rs1 s
  | .fmth rs1 => Sys2Proof.Machine.execFmth rs1 s

end Sys2Proof.Machine
end

