-- ==== Sys2Proof/Machine/Port.lean ====
section
/-! DEFINITION. The host port: the register map (20_memory R53), HostRead (R60), HostWrite (R61), the system address
(R50), the width (R51), and the reset input (70_reset_and_hazards R240). -/

namespace Sys2Proof.Machine

/-- A place in the window, by word (20_memory R53). -/
inductive Loc where
  | cmd
  | status
  | tlen
  | id
  /-- word k of the text buffer (20_memory R58) -/
  | txt (k : Fin 64)
  /-- word k of element register r (20_memory R55) -/
  | elem (r : RegIx) (k : Fin 8)
  /-- word k of the accumulator (20_memory R57) -/
  | acc (k : Fin 16)
  | reserved
  deriving DecidableEq, Repr

/-- The register map (20_memory R53, R60). Called on word-aligned offsets. -/
def locate (off : Offset) : Loc :=
  let n := off.toNat
  if n = 0x000 then .cmd
  else if n = 0x004 then .status
  else if n = 0x008 then .tlen
  else if n = 0x00C then .id
  else if 0x100 ≤ n ∧ n < 0x200 then .txt (Fin.ofNat 64 ((n - 0x100) / 4))
  else if 0x400 ≤ n ∧ n < 0x600 then .elem (Fin.ofNat 16 ((n - 0x400) / 32)) (Fin.ofNat 8 ((n - 0x400) / 4))
  else if 0x600 ≤ n ∧ n < 0x640 then .acc (Fin.ofNat 16 ((n - 0x600) / 4))
  else .reserved

/-- `off[1:0] ≠ 00` (20_memory R52). -/
def misaligned (off : Offset) : Bool := off.extractLsb' 0 2 != 0

/-- What is at a place, exactly (20_memory R60). Words 6, 7 of an element and 11 to 15 of W read 0, as do the bits above
the value's width (R55, R57, R59). -/
def readLoc (s : State) : Loc → Word32
  | .cmd => s.lastcmd
  | .status => statusWord s
  | .tlen => s.len.setWidth 32
  | .id => Config.idWord
  | .txt k => wordOfBytes (readByte s.txt (4 * k)) (readByte s.txt (4 * k + 1)) (readByte s.txt (4 * k + 2))
      (readByte s.txt (4 * k + 3))
  | .elem r k => getWord (readF s r) k
  | .acc k => getWord s.w k
  | .reserved => 0

/-- CMD, STATUS and ID read exactly while BUSY = 1 too (20_memory R60, R62). -/
def exactWhileBusy : Loc → Bool
  | .cmd => true
  | .status => true
  | .id => true
  | .tlen => false
  | .txt _ => false
  | .elem _ _ => false
  | .acc _ => false
  | .reserved => false

/-- The set STORING (20_memory R61). -/
def storing : Loc → Bool
  | .cmd => true
  | .status => false
  | .tlen => true
  | .id => false
  | .txt _ => true
  | .elem _ k => decide (k.val ≤ 5)
  | .acc k => decide (k.val ≤ 10)
  | .reserved => false

/-- The port's answer. -/
def respond (r : Response) (s : State) : State := { s with resp := some r }

/-- HostRead (20_memory R60). While BUSY = 1 a read of anything but CMD, STATUS and ID returns a free value (R62): the
model draws it. Nothing else of the state changes. -/
def hostRead (off : Offset) (s : State) : State :=
  if misaligned off then respond .busError s
  else if s.busy && !exactWhileBusy (locate off) then
    respond (.data (Config.busyRead s.draws off s.pend (operands s))) { s with draws := s.draws + 1 }
  else respond (.data (readLoc s (locate off))) s

/-- A command word is accepted: LASTCMD <- v, PEND <- v, BUSY <- 1 (10_state R26, 20_memory R61). How many host events
come before the engine's step is a free value that may depend on the word and its operands (00_scope R13). -/
def acceptCommand (v : Word32) (s : State) : State :=
  { s with lastcmd := v, pend := some v, wait := Config.latency s.draws v (operands s), draws := s.draws + 1 }

/-- A write that is performed (20_memory R61, R55 to R58; R59: ID and reserved words ignore it). -/
def writeLoc (v : Word32) (s : State) : Loc → State
  | .cmd => acceptCommand v s
  | .status => clearStatus v s
  | .tlen => { s with len := v.setWidth 9 }
  | .id => s
  | .txt k => { s with txt := writeBytes s.txt (4 * k) (bytesOfWord v) }
  | .elem r k => writeF r (putWord (readF s r) k v) s
  | .acc k => writeW (putWord s.w k v) s
  | .reserved => s

/-- HostWrite (20_memory R61). A write to a storing place while BUSY = 1 is dropped and sets OVERRUN; the host gets a
normal answer (70_reset_and_hazards R252). -/
def hostWrite (off : Offset) (v : Word32) (s : State) : State :=
  if misaligned off then respond .busError s
  else if s.busy && storing (locate off) then respond .ok (setOverrun s)
  else respond .ok (writeLoc v s (locate off))

/-- The offset of a system byte address, if it falls in the window: GF_BASE ≤ a < GF_BASE + 0x1000 (20_memory R50). -/
def windowOffset (a : Nat) : Option Offset :=
  if Config.gfBase ≤ a ∧ a < Config.gfBase + 0x1000 then some (BitVec.ofNat 12 (a - Config.gfBase)) else none

/-- Every piece of the block's state at its reset value (10_state R39); what arrives at the pins and the model's draw
counter are not the block's and stay. -/
def resetBlock (asserted : Bool) (s : State) : State :=
  { State.reset with inReset := asserted, inbox := s.inbox, draws := s.draws }

/-- A host access at the port. -/
def performOp (off : Offset) (op : BusOp) (s : State) : State :=
  match op with
  | .read => hostRead off s
  | .write v => hostWrite off v s

/-- A host access whose address has been taken apart. One outside the window is to no address of this block
(20_memory R50); one while reset is asserted (70_reset_and_hazards R240) or not 32 bits wide (20_memory R51) is refused. -/
def performAccess (off : Option Offset) (width : AccessWidth) (op : BusOp) (s : State) :
    Host.Outcome State Fault Refusal :=
  match off with
  | none => .fault .outsideWindow
  | some off =>
    if s.inReset then .refused .accessDuringReset
    else if width = .bits32 then .next (performOp off op s)
    else .refused .unsupportedWidth

/-- What an arriving event does. Reset abandons a pending command (70_reset_and_hazards R240). -/
def performEvent (e : Event) (s : State) : Host.Outcome State Fault Refusal :=
  match e with
  | .resetLevel asserted => .next (resetBlock asserted s)
  | .access width addr op => performAccess (windowOffset addr) width op s

end Sys2Proof.Machine
end

