-- ==== Sys2Proof/Machine/Engine.lean ====
section
/-! DEFINITION. The two agents' steps and whose turn it is (70_reset_and_hazards R250, R251). -/

namespace Sys2Proof.Machine

/-- A pending word decodes to a command or raises ILLEGAL (70_reset_and_hazards R250, 30_encoding R86). -/
def runWord (c : Word32) (s : State) : Host.Outcome State Fault Refusal :=
  match decode c with
  | .command i => exec i s
  | .illegal _ => .next (raiseCmdError .illegal s)

/-- EngineStep, enabled exactly when BUSY = 1 (70_reset_and_hazards R250). -/
def engineStep (s : State) : Host.Outcome State Fault Refusal :=
  match s.pend with
  | some c => runWord c s
  | none => .next s

/-- The next event arrives. With nothing to arrive and nothing pending the block is idle and keeps its state
(70_reset_and_hazards R241, 60_exceptions R224). -/
def hostStep (s : State) : Host.Outcome State Fault Refusal :=
  match s.inbox with
  | [] => .next s
  | e :: rest => performEvent e { s with inbox := rest, wait := s.wait - 1 }

/-- The engine moves next: a command is pending, reset is not asserted, and the host events that come before its
completion have been performed, or none is left (70_reset_and_hazards R250, R251). -/
def engineTurn (s : State) : Bool :=
  s.busy && !s.inReset && (s.wait == 0 || s.inbox.isEmpty)

/-- A word pending with the engine moving next: what an accepted CMD write of it leaves, once the host events before the
completion have been performed (10_state R26, 70_reset_and_hazards R250). -/
def placeCommand (c : Word32) (s : State) : State :=
  { s with lastcmd := c, pend := some c, wait := 0, inReset := false }

end Sys2Proof.Machine
end

