-- ==== Sys2Proof/Machine/Step.lean ====
section
/-! DEFINITION. One step of the machine: the engine's or the host's (70_reset_and_hazards R250, R251). -/

namespace Sys2Proof.Machine

/-- The engine's step when it is its turn, otherwise the next host event. -/
def step (s : State) : Host.Outcome State Fault Refusal :=
  if engineTurn s then engineStep s else hostStep s

/-- The state with a table word placed where the next step takes its command from. -/
def State.withFetchWord (s : State) (nbits w : Nat) : State := placeCommand (tableWord nbits w) s

end Sys2Proof.Machine
end

