-- ==== Sys2Proof/Machine/Notation.lean ====
section
/-! DEFINITION. The host-program notation of 30_encoding R90 as events of the port. `wait` is the host's own polling loop
and has no event of its own: in the model the engine's step is taken after finitely many events. -/

namespace Sys2Proof.Machine

/-- `hw off, v`: HostWrite (30_encoding R90). -/
def hw (off : Offset) (v : Word32) : Event := .access .bits32 (Config.gfBase + off.toNat) (.write v)

/-- `hr off`: HostRead (30_encoding R90). -/
def hr (off : Offset) : Event := .access .bits32 (Config.gfBase + off.toNat) .read

/-- The CMD write of `exec <command>` (30_encoding R90). -/
def issue (i : Instr) : Event := hw 0x000 (encode i)

/-- The words of `text "s"`, the first at TXT word k, padded past the end with 0x00 (30_encoding R90). -/
def textWords (k : Nat) : List Byte → List Event
  | [] => []
  | [b0] => [hw (BitVec.ofNat 12 (0x100 + 4 * k)) (wordOfBytes b0 0 0 0)]
  | [b0, b1] => [hw (BitVec.ofNat 12 (0x100 + 4 * k)) (wordOfBytes b0 b1 0 0)]
  | [b0, b1, b2] => [hw (BitVec.ofNat 12 (0x100 + 4 * k)) (wordOfBytes b0 b1 b2 0)]
  | b0 :: b1 :: b2 :: b3 :: rest =>
    hw (BitVec.ofNat 12 (0x100 + 4 * k)) (wordOfBytes b0 b1 b2 b3) :: textWords (k + 1) rest

/-- `text "s"`: the packed words, then TLEN <- n (30_encoding R90). -/
def text (str : List Byte) : List Event := textWords 0 str ++ [hw 0x008 (BitVec.ofNat 32 str.length)]

end Sys2Proof.Machine
end

