-- ==== Sys2Proof/Safety.lean ====
section
/-! DEFINITION. What every reachable state satisfies, and which events the spec serves. -/

namespace Sys2Proof.Machine

/-- The invariant of the block: TXT is canonical (its own form), ERR is a code the spec produces (93 U10), a pending
word is LASTCMD (10_state R26), and no command is pending while reset is asserted (70_reset_and_hazards R240). -/
structure Inv (s : State) : Prop where
  txt : Memory.wf s.txt
  err : s.err.toNat ≤ 8
  pend : ∀ c, s.pend = some c → s.lastcmd = c
  reset : s.inReset = true → s.pend = none

/-- An event the spec says the block serves: a 32-bit access in the window (20_memory R50, R51). -/
def served : Event → Bool
  | .access .bits32 addr _ => (windowOffset addr).isSome
  | .access .bits8 _ _ => false
  | .access .bits16 _ _ => false
  | .access .bits64 _ _ => false
  | .resetLevel _ => false

/-- A run that does not stop: every step of it answers a next state. -/
def SafeRun (n : Nat) (s : State) : Prop :=
  match n with
  | 0 => True
  | k + 1 => ∃ t, step s = .next t ∧ SafeRun k t

end Sys2Proof.Machine
end

