-- ==== Sys2Proof/WellFormed.lean ====
section
/-! DEFINITION. Which commands have a command word: register indices are legal by their type, and a WXOR
shift is at most 172 (30_encoding R82, R83, R86). -/

namespace Sys2Proof

/-- The check, one arm per command. Only WXOR has an operand with an illegal value (30_encoding R86). -/
def Instr.wf : Instr → Bool
  | .zero _ => true
  | .mov _ _ => true
  | .add _ _ _ => true
  | .mul _ _ _ => true
  | .sqr _ _ => true
  | .pow _ _ _ => true
  | .inv _ _ => true
  | .trace _ => true
  | .eq _ _ => true
  | .wclr => true
  | .wxor _ sh => decide (sh.toNat ≤ Config.maxShift)
  | .clmul _ _ => true
  | .spread _ => true
  | .red _ => true
  | .parseb _ => true
  | .parseh _ => true
  | .fmtb _ => true
  | .fmth _ => true

/-- A command the encoding can express. -/
abbrev Instr.WellFormed (i : Instr) : Prop := i.wf = true

end Sys2Proof
end

