-- ==== Sys2Proof/Certificates/Slice0/Obligations.lean ====
section
/-! DEFINITION. The statements for the provers, and the words they are written in. -/

namespace Sys2Proof.Claims

open Sys2Proof.Machine

/-! ### What stays the same -/

/-- F, W, TXT and TLEN read as before. -/
structure SameData (s t : State) : Prop where
  f : ∀ r, readF t r = readF s r
  w : t.w = s.w
  txt : ∀ k, readByte t.txt k = readByte s.txt k
  len : t.len = s.len

/-- STATUS.TR and STATUS.EQ as before. -/
structure SameFlags (s t : State) : Prop where
  tr : t.trFlag = s.trFlag
  eq : t.eqFlag = s.eqFlag

/-- What no command touches: LASTCMD, OVERRUN, the reset level and the model's own fields. -/
structure SameRest (s t : State) : Prop where
  lastcmd : t.lastcmd = s.lastcmd
  overrun : t.overrun = s.overrun
  inReset : t.inReset = s.inReset
  inbox : t.inbox = s.inbox
  wait : t.wait = s.wait
  draws : t.draws = s.draws
  resp : t.resp = s.resp

/-- The whole architectural state of 10_state R38, and the reset level, as before. -/
structure SameBlock (s t : State) : Prop where
  data : SameData s t
  flags : SameFlags s t
  lastcmd : t.lastcmd = s.lastcmd
  pend : t.pend = s.pend
  err : t.err = s.err
  sticky : t.sticky = s.sticky
  overrun : t.overrun = s.overrun
  inReset : t.inReset = s.inReset

/-- Everything but the register `rd` and the completion's STATUS fields is as before. -/
structure ElementOnly (rd : RegIx) (s t : State) : Prop where
  others : ∀ r, r ≠ rd → readF t r = readF s r
  w : t.w = s.w
  txt : ∀ k, readByte t.txt k = readByte s.txt k
  len : t.len = s.len
  flags : SameFlags s t

/-- Everything but W and the completion's STATUS fields is as before. -/
structure AccumulatorOnly (s t : State) : Prop where
  f : ∀ r, readF t r = readF s r
  txt : ∀ k, readByte t.txt k = readByte s.txt k
  len : t.len = s.len
  flags : SameFlags s t

/-- Everything but TXT[0..n−1], TLEN and the completion's STATUS fields is as before. -/
structure TextOnly (n : Nat) (s t : State) : Prop where
  f : ∀ r, readF t r = readF s r
  w : t.w = s.w
  later : ∀ k, n ≤ k → readByte t.txt k = readByte s.txt k
  flags : SameFlags s t

/-! ### How a command ends -/

/-- `complete()`: ERR is 0, BUSY is 0, STICKY is as before (60_exceptions R213). -/
structure Succeeded (s t : State) : Prop where
  err : t.err = 0
  busy : t.busy = false
  sticky : t.sticky = s.sticky
  rest : SameRest s t

/-- `raise CmdError(code)`: ERR, STICKY, BUSY, and nothing else (60_exceptions R212). -/
structure Raised (code : BitVec 4) (s t : State) : Prop where
  err : t.err = code
  sticky : t.sticky = true
  busy : t.busy = false
  data : SameData s t
  flags : SameFlags s t
  rest : SameRest s t

/-- Among the words with opcode `op`, exactly those with `c & mask = pattern` are the command, with the operands of
the word's fields; the others are illegal (30_encoding R85, R86). -/
def DecodesBy (op : BitVec 8) (pattern mask : Word32) (mk : Fields → Instr) : Prop :=
  ∀ c : Word32, (fieldsOf c).op = op →
    (c &&& mask = pattern → decode c = .command (mk (fieldsOf c))) ∧
    (c &&& mask ≠ pattern → ∃ why, decode c = .illegal why)

/-! ### Whose turn it is -/

/-- The engine moves next, on the pending word `c`. -/
structure EngineTurn (s : State) (c : Word32) : Prop where
  pend : s.pend = some c
  noReset : s.inReset = false
  due : s.wait = 0 ∨ s.inbox = []

/-- The event `e` arrives next, with `rest` after it. -/
structure HostTurn (s : State) (e : Event) (rest : List Event) : Prop where
  inbox : s.inbox = e :: rest
  free : s.pend = none ∨ s.inReset = true ∨ 0 < s.wait

/-! ### The field, in Mathlib's terms -/

/-- A bit vector as a polynomial over GF(2): bit k is the coefficient of x^k (00_scope R14). -/
noncomputable def toPoly {n : Nat} (v : BitVec n) : Polynomial (ZMod 2) :=
  ∑ k ∈ Finset.range n, if v.getLsbD k then Polynomial.X ^ k else 0

/-- f(x) = x^173 + x^10 + x^2 + x + 1 (00_scope R2). -/
noncomputable def fPoly : Polynomial (ZMod 2) :=
  Polynomial.X ^ 173 + Polynomial.X ^ 10 + Polynomial.X ^ 2 + Polynomial.X + 1

/-- The n-th power of a field element, by repeated multiplication; the 0-th power is ONE (44_pow R151). -/
def fieldPow (a : Element) : Nat → Element
  | 0 => Config.one
  | n + 1 => mulred (fieldPow a n) a

/-- The inner loop of 00_scope R16: for j = 0 … n−1, where a[j] = 1 bit i + j of the accumulator is toggled. -/
def toggleInner (a : Element) (i : Nat) (acc : Product) : Nat → Product
  | 0 => acc
  | n + 1 =>
    if a.getLsbD n then toggleInner a i acc n ^^^ ((1 : Product) <<< (i + n)) else toggleInner a i acc n

/-- The outer loop of 00_scope R16: for i = 0 … n−1, where b[i] = 1 the inner loop runs over all 173 bits of a. -/
def toggleOuter (a b : Element) : Nat → Product
  | 0 => 0
  | n + 1 => if b.getLsbD n then toggleInner a n (toggleOuter a b n) 173 else toggleOuter a b n

/-! ### What each command reads and writes (30_encoding R84) -/

/-- The destination register. -/
def destination : Instr → Option RegIx
  | .zero rd => some rd
  | .mov rd _ => some rd
  | .add rd _ _ => some rd
  | .mul rd _ _ => some rd
  | .sqr rd _ => some rd
  | .pow rd _ _ => some rd
  | .inv rd _ => some rd
  | .trace _ => none
  | .eq _ _ => none
  | .wclr => none
  | .wxor _ _ => none
  | .clmul _ _ => none
  | .spread _ => none
  | .red rd => some rd
  | .parseb rd => some rd
  | .parseh rd => some rd
  | .fmtb _ => none
  | .fmth _ => none

/-- The source registers. -/
def sources : Instr → List RegIx
  | .zero _ => []
  | .mov _ rs1 => [rs1]
  | .add _ rs1 rs2 => [rs1, rs2]
  | .mul _ rs1 rs2 => [rs1, rs2]
  | .sqr _ rs1 => [rs1]
  | .pow _ rs1 rs2 => [rs1, rs2]
  | .inv _ rs1 => [rs1]
  | .trace rs1 => [rs1]
  | .eq rs1 rs2 => [rs1, rs2]
  | .wclr => []
  | .wxor rs1 _ => [rs1]
  | .clmul rs1 rs2 => [rs1, rs2]
  | .spread rs1 => [rs1]
  | .red _ => []
  | .parseb _ => []
  | .parseh _ => []
  | .fmtb rs1 => [rs1]
  | .fmth rs1 => [rs1]

/-- WCLR, WXOR, CLMUL, SPREAD and RED write W (10_state R23). -/
def WritesW (i : Instr) : Prop :=
  i = .wclr ∨ (∃ rs1 sh, i = .wxor rs1 sh) ∨ (∃ rs1 rs2, i = .clmul rs1 rs2) ∨ (∃ rs1, i = .spread rs1) ∨
    ∃ rd, i = .red rd

/-- WXOR and RED read W (10_state R23). -/
def ReadsW (i : Instr) : Prop := (∃ rs1 sh, i = .wxor rs1 sh) ∨ ∃ rd, i = .red rd

/-- The formatters write TXT and TLEN (10_state R24). -/
def WritesText (i : Instr) : Prop := (∃ rs1, i = .fmtb rs1) ∨ ∃ rs1, i = .fmth rs1

/-- The parsers read the string TXT[0..LEN−1] (10_state R24). -/
def ReadsText (i : Instr) : Prop := (∃ rd, i = .parseb rd) ∨ ∃ rd, i = .parseh rd

/-- Two states agree on every operand of a command. -/
structure SameOperands (i : Instr) (s t : State) : Prop where
  f : ∀ r ∈ sources i, readF s r = readF t r
  w : ReadsW i → s.w = t.w
  text : ReadsText i → s.len = t.len ∧ ∀ k, k < s.len.toNat → readByte s.txt k = readByte t.txt k

/-- Two states agree on every result of a command. -/
structure SameResults (i : Instr) (s t : State) : Prop where
  f : ∀ r, destination i = some r → readF s r = readF t r
  w : WritesW i → s.w = t.w
  text : WritesText i → s.len = t.len ∧ ∀ k, k < s.len.toNat → readByte s.txt k = readByte t.txt k
  tr : (∃ rs1, i = .trace rs1) → s.trFlag = t.trFlag
  eq : (∃ rs1 rs2, i = .eq rs1 rs2) → s.eqFlag = t.eqFlag

/-- The error codes a command can complete with, besides 0 (60_exceptions R211, column "raised by"; ILLEGAL is the
decoder's). -/
def errorCodes : Instr → List (BitVec 4)
  | .zero _ => []
  | .mov _ _ => []
  | .add _ _ _ => []
  | .mul _ _ _ => []
  | .sqr _ _ => []
  | .pow _ _ _ => []
  | .inv _ _ => [6]
  | .trace _ => [8]
  | .eq _ _ => []
  | .wclr => []
  | .wxor _ _ => []
  | .clmul _ _ => []
  | .spread _ => []
  | .red _ => []
  | .parseb _ => [1, 2, 5]
  | .parseh _ => [3, 4, 5]
  | .fmtb _ => []
  | .fmth _ => []

/-- The assigned opcodes (30_encoding R84). -/
def assignedOps : List (BitVec 8) :=
  [0x01, 0x02, 0x10, 0x11, 0x12, 0x13, 0x14, 0x15, 0x16, 0x20, 0x21, 0x22, 0x23, 0x24, 0x30, 0x31, 0x32, 0x33]

/-- The three cases of an illegal word (30_encoding R86); a field the command does not use is a zero bit of the
row's pattern under its mask (R85). -/
def IllegalWord (c : Word32) : Prop :=
  (fieldsOf c).op ∉ assignedOps ∨
  (∃ row ∈ opcodeRows, (fieldsOf c).op = (fieldsOf row.pattern).op ∧ c &&& row.mask ≠ row.pattern) ∨
  ((fieldsOf c).op = 0x21 ∧ 172 < (fieldsOf c).imm.toNat)

/-! ### Offsets of the window -/

/-- The set STORING (20_memory R61). -/
def StoringOffset (off : Offset) : Prop :=
  off.toNat = 0x000 ∨ off.toNat = 0x008 ∨ (∃ k, k < 64 ∧ off.toNat = 0x100 + 4 * k) ∨
  (∃ i w, i ≤ 15 ∧ w ≤ 5 ∧ off.toNat = 0x400 + 0x20 * i + 4 * w) ∨ (∃ w, w ≤ 10 ∧ off.toNat = 0x600 + 4 * w)

/-- Reserved offsets and the reserved words of the element and W windows (20_memory R59). -/
def ReservedOffset (off : Offset) : Prop :=
  off.toNat % 4 = 0 ∧
  ((0x010 ≤ off.toNat ∧ off.toNat ≤ 0x0FC) ∨ (0x200 ≤ off.toNat ∧ off.toNat ≤ 0x3FC) ∨ 0x640 ≤ off.toNat ∨
    (∃ i w, i ≤ 15 ∧ 6 ≤ w ∧ w ≤ 7 ∧ off.toNat = 0x400 + 0x20 * i + 4 * w) ∨
    (∃ w, 11 ≤ w ∧ w ≤ 15 ∧ off.toNat = 0x600 + 4 * w))

/-- The offset of word `w` of element register `r` (20_memory R55). -/
def elemOffset (r : RegIx) (w : Nat) : Offset := BitVec.ofNat 12 (0x400 + 0x20 * r.val + 4 * w)

/-- The offset of word `w` of the accumulator (20_memory R57). -/
def accOffset (w : Nat) : Offset := BitVec.ofNat 12 (0x600 + 4 * w)

/-- The offset of text word `k` (20_memory R58). -/
def txtOffset (k : Nat) : Offset := BitVec.ofNat 12 (0x100 + 4 * k)

/-- `c` is the character of a hexadecimal digit of value `d` (47_text R183). -/
def HexChar (c : Byte) (d : Nat) : Prop :=
  (d < 10 ∧ c.toNat = 0x30 + d) ∨ (10 ≤ d ∧ d < 16 ∧ (c.toNat = 0x41 + (d - 10) ∨ c.toNat = 0x61 + (d - 10)))

end Sys2Proof.Claims

open Sys2Proof Sys2Proof.Machine Sys2Proof.Claims

/-! ## Encoding -/

/-- Decoding the word of any well-formed command gives it back (30_encoding R81, R84, R85). -/
def Obligations.DecodeEncodeAgree : Prop :=
  ∀ i : Instr, i.WellFormed → decode (encode i) = .command i

/-- A legal word is the word of the command it decodes to, so no bit is ignored and no two words are one command
(30_encoding R85, R86). -/
def Obligations.EncodeDecodeAgree : Prop :=
  ∀ (c : Word32) (i : Instr), decode c = .command i → encode i = c ∧ i.WellFormed

/-- The decoder follows the (match, mask) rows, which are disjoint (30_encoding R85, R87). -/
def Obligations.DecoderFollowsOpcodeRows : Prop :=
  (∀ (c : Word32) (i : Instr), decode c = .command i →
    (∃ row ∈ opcodeRows, row.mnemonic = mnemonic i ∧ rowMatches c row = true) ∧ fieldsOfInstr i = fieldsOf c) ∧
  (∀ c : Word32, ∀ row ∈ opcodeRows, rowMatches c row = true → ∃ i, decode c = .command i ∧ mnemonic i = row.mnemonic) ∧
  (∀ c : Word32, ∀ row ∈ opcodeRows, ∀ row' ∈ opcodeRows,
    c &&& row.mask = row.pattern → c &&& row'.mask = row'.pattern → row = row')

/-- Words the spec writes out (30_encoding R88, 95 L2.10). -/
def Obligations.SampleWordsDecode : Prop :=
  decode 0x11312000 = .command (.mul 3 1 2) ∧ decode 0x210100AC = .command (.wxor 1 172) ∧
  decode 0x01500000 = .command (.zero 5) ∧ decode 0x20000000 = .command .wclr ∧
  decode 0x13FAB000 = .command (.pow 15 10 11) ∧ decode 0x330F0000 = .command (.fmth 15) ∧
  decode 0x210100AD = .illegal .shift ∧ decode 0x11312100 = .illegal .field ∧ decode 0x00000000 = .illegal .opcode

/-- An illegal word raises ILLEGAL and changes nothing but STATUS; the listed opcodes are the unassigned ones; an accepted
word is stored in LASTCMD, legal or not (30_encoding R86). -/
def Obligations.IllegalWordsRaise : Prop :=
  (∀ (s : State) (c : Word32), EngineTurn s c → IllegalWord c → ∃ t, step s = .next t ∧ Raised 7 s t) ∧
  (∀ c : Word32, (fieldsOf c).op ∉ assignedOps ↔
    ((fieldsOf c).op.toNat = 0x00 ∨ (0x03 ≤ (fieldsOf c).op.toNat ∧ (fieldsOf c).op.toNat ≤ 0x0F) ∨
      (0x17 ≤ (fieldsOf c).op.toNat ∧ (fieldsOf c).op.toNat ≤ 0x1F) ∨
      (0x25 ≤ (fieldsOf c).op.toNat ∧ (fieldsOf c).op.toNat ≤ 0x2F) ∨ 0x34 ≤ (fieldsOf c).op.toNat)) ∧
  (∀ (s : State) (c : Word32) (rest : List Event), HostTurn s (hw 0x000 c) rest → s.inReset = false → s.pend = none →
    ∃ t, step s = .next t ∧ t.lastcmd = c)

/-! ## The commands, one by one -/

/-- ZERO (40_construction R100). -/
def Obligations.ZeroClearsElement : Prop :=
  DecodesBy 0x01 0x01000000 0xFF0FFFFF (fun x => .zero (regOf x.rd)) ∧
  ∀ (rd : RegIx) (s : State), ∃ t, exec (.zero rd) s = .next t ∧ readF t rd = 0 ∧ ElementOnly rd s t ∧ Succeeded s t

/-- MOV (40_construction R101). -/
def Obligations.MovCopiesElement : Prop :=
  DecodesBy 0x02 0x02000000 0xFF00FFFF (fun x => .mov (regOf x.rd) (regOf x.rs1)) ∧
  ∀ (rd rs1 : RegIx) (s : State), ∃ t, exec (.mov rd rs1) s = .next t ∧ readF t rd = readF s rs1 ∧
    ElementOnly rd s t ∧ Succeeded s t

/-- ADD, bit by bit (41_addition R110). -/
def Obligations.AddXorsElements : Prop :=
  DecodesBy 0x10 0x10000000 0xFF000FFF (fun x => .add (regOf x.rd) (regOf x.rs1) (regOf x.rs2)) ∧
  ∀ (rd rs1 rs2 : RegIx) (s : State), ∃ t, exec (.add rd rs1 rs2) s = .next t ∧
    (∀ k, (readF t rd).getLsbD k = ((readF s rs1).getLsbD k ^^ (readF s rs2).getLsbD k)) ∧
    ElementOnly rd s t ∧ Succeeded s t

/-- MUL; W is unchanged (42_multiply_reduce R120). -/
def Obligations.MulReducesProduct : Prop :=
  DecodesBy 0x11 0x11000000 0xFF000FFF (fun x => .mul (regOf x.rd) (regOf x.rs1) (regOf x.rs2)) ∧
  ∀ (rd rs1 rs2 : RegIx) (s : State), ∃ t, exec (.mul rd rs1 rs2) s = .next t ∧
    readF t rd = reduce (clmul (readF s rs1) (readF s rs2)) ∧ ElementOnly rd s t ∧ Succeeded s t

/-- WCLR (42_multiply_reduce R121). -/
def Obligations.WclrClearsAccumulator : Prop :=
  DecodesBy 0x20 0x20000000 0xFFFFFFFF (fun _ => .wclr) ∧
  ∀ s : State, ∃ t, exec .wclr s = .next t ∧ t.w = 0 ∧ AccumulatorOnly s t ∧ Succeeded s t

/-- WXOR, bit by bit, for every legal shift; an illegal shift or field is no command (42_multiply_reduce R122). The last
clause is the model's choice of log entry 11 (DEDUCED): the decoder rejects a word with such a shift first (30_encoding
R87, 60_exceptions R214), and the meaning, asked about it nevertheless, raises the same ILLEGAL. -/
def Obligations.WxorAccumulates : Prop :=
  (∀ c : Word32, (fieldsOf c).op = 0x21 →
    (c &&& 0xFFF0FF00 = 0x21000000 ∧ (fieldsOf c).imm.toNat ≤ 172 →
      decode c = .command (.wxor (regOf (fieldsOf c).rs1) (fieldsOf c).imm)) ∧
    (c &&& 0xFFF0FF00 ≠ 0x21000000 ∨ 172 < (fieldsOf c).imm.toNat → ∃ why, decode c = .illegal why)) ∧
  (∀ (rs1 : RegIx) (sh : BitVec 8) (s : State), sh.toNat ≤ 172 → ∃ t, exec (.wxor rs1 sh) s = .next t ∧
    (∀ j, j < 345 → t.w.getLsbD j = (s.w.getLsbD j ^^ (decide (sh.toNat ≤ j) && (readF s rs1).getLsbD (j - sh.toNat)))) ∧
    AccumulatorOnly s t ∧ Succeeded s t) ∧
  (∀ (rs1 : RegIx) (sh : BitVec 8) (s : State), 172 < sh.toNat → ∃ t, exec (.wxor rs1 sh) s = .next t ∧ Raised 7 s t)

/-- CLMUL overwrites W with the full product (42_multiply_reduce R123). -/
def Obligations.ClmulWritesProduct : Prop :=
  DecodesBy 0x22 0x22000000 0xFFF00FFF (fun x => .clmul (regOf x.rs1) (regOf x.rs2)) ∧
  ∀ (rs1 rs2 : RegIx) (s : State), ∃ t, exec (.clmul rs1 rs2) s = .next t ∧
    t.w = clmul (readF s rs1) (readF s rs2) ∧ AccumulatorOnly s t ∧ Succeeded s t

/-- RED: F[RD] and W both get the remainder; bits 344 … 173 of W are 0 afterwards (42_multiply_reduce R124). -/
def Obligations.RedReducesInPlace : Prop :=
  DecodesBy 0x24 0x24000000 0xFF0FFFFF (fun x => .red (regOf x.rd)) ∧
  ∀ (rd : RegIx) (s : State), ∃ t, exec (.red rd) s = .next t ∧ readF t rd = reduce s.w ∧
    t.w = (reduce s.w).setWidth 345 ∧ (∀ r, r ≠ rd → readF t r = readF s r) ∧
    (∀ k, readByte t.txt k = readByte s.txt k) ∧ t.len = s.len ∧ SameFlags s t ∧ Succeeded s t

/-- SQR; W is unchanged (43_square R140). -/
def Obligations.SqrReducesSpread : Prop :=
  DecodesBy 0x12 0x12000000 0xFF00FFFF (fun x => .sqr (regOf x.rd) (regOf x.rs1)) ∧
  ∀ (rd rs1 : RegIx) (s : State), ∃ t, exec (.sqr rd rs1) s = .next t ∧
    readF t rd = reduce (spread (readF s rs1)) ∧ ElementOnly rd s t ∧ Succeeded s t

/-- SPREAD: even bits of W are the operand's bits, odd bits are 0 (43_square R141). -/
def Obligations.SpreadInterleavesZeros : Prop :=
  DecodesBy 0x23 0x23000000 0xFFF0FFFF (fun x => .spread (regOf x.rs1)) ∧
  ∀ (rs1 : RegIx) (s : State), ∃ t, exec (.spread rs1) s = .next t ∧
    (∀ k, t.w.getLsbD (2 * k) = (readF s rs1).getLsbD k ∧ t.w.getLsbD (2 * k + 1) = false) ∧
    AccumulatorOnly s t ∧ Succeeded s t

/-- POW: the square-and-multiply loop of 173 iterations (44_pow R150). -/
def Obligations.PowRunsSquareAndMultiply : Prop :=
  DecodesBy 0x13 0x13000000 0xFF000FFF (fun x => .pow (regOf x.rd) (regOf x.rs1) (regOf x.rs2)) ∧
  ∀ (rd rs1 rs2 : RegIx) (s : State), ∃ t, exec (.pow rd rs1 rs2) s = .next t ∧
    readF t rd = power (readF s rs1) (readF s rs2) ∧ ElementOnly rd s t ∧ Succeeded s t

/-- TRACE, where the accumulator passes the check (45_trace R160); that it always does is
`Obligations.TraceCheckNeverFires`. -/
def Obligations.TraceSetsFlag : Prop :=
  DecodesBy 0x15 0x15000000 0xFFF0FFFF (fun x => .trace (regOf x.rs1)) ∧
  ∀ (rs1 : RegIx) (s : State), (∀ k, 1 ≤ k → (traceAcc (readF s rs1)).getLsbD k = false) →
    ∃ t, exec (.trace rs1) s = .next t ∧ t.trFlag = (traceAcc (readF s rs1)).getLsbD 0 ∧ t.eqFlag = s.eqFlag ∧
      SameData s t ∧ Succeeded s t

/-- INV: the loop's value for a non-zero operand, DOMAIN for zero with F[RD] unchanged (46_inverse R170, R173). -/
def Obligations.InvInvertsOrRaisesDomain : Prop :=
  DecodesBy 0x14 0x14000000 0xFF00FFFF (fun x => .inv (regOf x.rd) (regOf x.rs1)) ∧
  (∀ (rd rs1 : RegIx) (s : State), readF s rs1 ≠ 0 → ∃ t, exec (.inv rd rs1) s = .next t ∧
    readF t rd = inverse (readF s rs1) ∧ ElementOnly rd s t ∧ Succeeded s t) ∧
  (∀ (rd rs1 : RegIx) (s : State), readF s rs1 = 0 → ∃ t, exec (.inv rd rs1) s = .next t ∧ Raised 6 s t)

/-- PARSEB: the checks in their order and the value, bit by bit (47_text R184, R182, R189). -/
def Obligations.ParsebReadsBinaryString : Prop :=
  DecodesBy 0x30 0x30000000 0xFF0FFFFF (fun x => .parseb (regOf x.rd)) ∧
  ∀ (rd : RegIx) (s : State),
    (256 < s.len.toNat → ∃ t, exec (.parseb rd) s = .next t ∧ Raised 5 s t) ∧
    (173 < s.len.toNat → s.len.toNat ≤ 256 → ∃ t, exec (.parseb rd) s = .next t ∧ Raised 2 s t) ∧
    (s.len.toNat ≤ 173 → (∃ k, k < s.len.toNat ∧ readByte s.txt k ≠ 0x30 ∧ readByte s.txt k ≠ 0x31) →
      ∃ t, exec (.parseb rd) s = .next t ∧ Raised 1 s t) ∧
    (s.len.toNat ≤ 173 → (∀ k, k < s.len.toNat → readByte s.txt k = 0x30 ∨ readByte s.txt k = 0x31) →
      ∃ t, exec (.parseb rd) s = .next t ∧
        (∀ k, k < s.len.toNat → (readF t rd).getLsbD (s.len.toNat - 1 - k) = decide (readByte s.txt k = 0x31)) ∧
        (∀ j, s.len.toNat ≤ j → (readF t rd).getLsbD j = false) ∧ ElementOnly rd s t ∧ Succeeded s t)

/-- PARSEH: the checks in their order and the value, from the digits (47_text R185, R182, R183, R189). -/
def Obligations.ParsehReadsHexString : Prop :=
  DecodesBy 0x31 0x31000000 0xFF0FFFFF (fun x => .parseh (regOf x.rd)) ∧
  ∀ (rd : RegIx) (s : State),
    (256 < s.len.toNat → ∃ t, exec (.parseh rd) s = .next t ∧ Raised 5 s t) ∧
    (s.len.toNat ≤ 256 → (∃ k, k < s.len.toNat ∧ ∀ d, ¬ HexChar (readByte s.txt k) d) →
      ∃ t, exec (.parseh rd) s = .next t ∧ Raised 3 s t) ∧
    (∀ d : Nat → Nat, s.len.toNat ≤ 256 → (∀ k, k < s.len.toNat → HexChar (readByte s.txt k) (d k)) →
      (2 ^ 173 ≤ ∑ k ∈ Finset.range s.len.toNat, d k * 16 ^ (s.len.toNat - 1 - k) →
        ∃ t, exec (.parseh rd) s = .next t ∧ Raised 4 s t) ∧
      (∑ k ∈ Finset.range s.len.toNat, d k * 16 ^ (s.len.toNat - 1 - k) < 2 ^ 173 →
        ∃ t, exec (.parseh rd) s = .next t ∧
          (readF t rd).toNat = ∑ k ∈ Finset.range s.len.toNat, d k * 16 ^ (s.len.toNat - 1 - k) ∧
          ElementOnly rd s t ∧ Succeeded s t))

/-- FMTB: 173 characters, the highest bit first (47_text R186). -/
def Obligations.FmtbWritesBinaryString : Prop :=
  DecodesBy 0x32 0x32000000 0xFFF0FFFF (fun x => .fmtb (regOf x.rs1)) ∧
  ∀ (rs1 : RegIx) (s : State), ∃ t, exec (.fmtb rs1) s = .next t ∧ t.len.toNat = 173 ∧
    (∀ k, k ≤ 172 → readByte t.txt k = if (readF s rs1).getLsbD (172 - k) then 0x31 else 0x30) ∧
    TextOnly 173 s t ∧ Succeeded s t

/-- FMTH: the minimal lower-case hexadecimal string (47_text R187). -/
def Obligations.FmthWritesMinimalHexString : Prop :=
  DecodesBy 0x33 0x33000000 0xFFF0FFFF (fun x => .fmth (regOf x.rs1)) ∧
  (∀ (rs1 : RegIx) (s : State), readF s rs1 = 0 → ∃ t, exec (.fmth rs1) s = .next t ∧ t.len.toNat = 1 ∧
    readByte t.txt 0 = 0x30 ∧ TextOnly 1 s t ∧ Succeeded s t) ∧
  (∀ (rs1 : RegIx) (s : State), readF s rs1 ≠ 0 → ∃ t d, exec (.fmth rs1) s = .next t ∧ t.len.toNat = d ∧
    1 ≤ d ∧ d ≤ 44 ∧ 16 ^ (d - 1) ≤ (readF s rs1).toNat ∧ (readF s rs1).toNat < 16 ^ d ∧
    (∀ k, k < d → ∃ nib, nib = (readF s rs1).toNat / 16 ^ (d - 1 - k) % 16 ∧
      (readByte t.txt k).toNat = if nib < 10 then 0x30 + nib else 0x61 + (nib - 10)) ∧
    TextOnly d s t ∧ Succeeded s t)

/-- EQ compares all 173 bits (48_equality R200). -/
def Obligations.EqComparesElements : Prop :=
  DecodesBy 0x16 0x16000000 0xFFF00FFF (fun x => .eq (regOf x.rs1) (regOf x.rs2)) ∧
  ∀ (rs1 rs2 : RegIx) (s : State), ∃ t, exec (.eq rs1 rs2) s = .next t ∧
    (t.eqFlag = true ↔ ∀ k, k < 173 → (readF s rs1).getLsbD k = (readF s rs2).getLsbD k) ∧
    t.trFlag = s.trFlag ∧ SameData s t ∧ Succeeded s t

/-! ## The arithmetic is that of GF(2)[x] / (f) -/

/-- The shifted-XOR product is the product of polynomials over GF(2) (00_scope R16, 42_multiply_reduce R123). -/
def Obligations.ClmulIsPolynomialProduct : Prop :=
  ∀ a b : Element, toPoly (clmul a b) = toPoly a * toPoly b

/-- The reduction engine computes the unique remainder modulo f, and is linear (42_multiply_reduce R125). -/
def Obligations.ReduceIsRemainder : Prop :=
  (∀ p : Product, toPoly (reduce p) = toPoly p %ₘ fPoly) ∧
  (∀ (p : Product) (r : Element), fPoly ∣ toPoly p - toPoly r → r = reduce p) ∧
  (∀ p q : Product, reduce (p ^^^ q) = reduce p ^^^ reduce q)

/-- The row form of the product is the double loop of toggled bits (00_scope R16). -/
def Obligations.ClmulEqualsDoubleLoop : Prop :=
  ∀ a b : Element, clmul a b = toggleOuter a b 173

/-- MUL's laws, and CLMUL followed by RED (42_multiply_reduce R126). -/
def Obligations.MulIsCommutativeRing : Prop :=
  (∀ a b : Element, mulred a b = mulred b a) ∧
  (∀ a b c : Element, mulred (mulred a b) c = mulred a (mulred b c)) ∧
  (∀ a b c : Element, mulred (a ^^^ b) c = mulred a c ^^^ mulred b c) ∧
  (∀ a : Element, mulred Config.one a = a) ∧
  (∀ (rd rs1 rs2 : RegIx) (s : State), ∃ t u v, exec (.clmul rs1 rs2) s = .next t ∧ exec (.red rd) t = .next u ∧
    exec (.mul rd rs1 rs2) s = .next v ∧ readF u rd = readF v rd ∧ u.w = (readF v rd).setWidth 345)

/-- Squaring is multiplication by itself, and is linear (43_square R142). -/
def Obligations.SquareIsSelfProduct : Prop :=
  (∀ a : Element, sqr a = mulred a a) ∧ (∀ a : Element, spread a = clmul a a) ∧
  (∀ a b : Element, sqr (a ^^^ b) = sqr a ^^^ sqr b)

/-- POW is the power by the exponent's integer value, with 0^0 = ONE (44_pow R151). -/
def Obligations.PowIsIntegerPower : Prop :=
  ∀ (rd rs1 rs2 : RegIx) (s : State), ∃ t, exec (.pow rd rs1 rs2) s = .next t ∧
    readF t rd = fieldPow (readF s rs1) (readF s rs2).toNat

/-- POW's laws, the Fermat check among them (44_pow R152). -/
def Obligations.PowSatisfiesFermat : Prop :=
  (∀ a : Element, power a Config.one = a) ∧ (∀ a : Element, power a 0 = Config.one) ∧
  (∀ a : Element, a ≠ 0 → power a (BitVec.allOnes 173) = Config.one)

/-- The trace is linear, invariant under squaring, and 0 or ONE (45_trace R161). -/
def Obligations.TraceIsLinearBit : Prop :=
  (∀ a b : Element, traceAcc (a ^^^ b) = traceAcc a ^^^ traceAcc b) ∧
  (∀ a : Element, traceAcc (sqr a) = traceAcc a) ∧
  (∀ a : Element, traceAcc a = 0 ∨ traceAcc a = Config.one)

/-- TRACE completes on every operand: TRACE_CHECK is unreachable (45_trace R162, R160). -/
def Obligations.TraceCheckNeverFires : Prop :=
  ∀ (rs1 : RegIx) (s : State), ∃ t, exec (.trace rs1) s = .next t ∧ Succeeded s t ∧ SameData s t ∧
    t.eqFlag = s.eqFlag ∧ traceAcc (readF s rs1) = if t.trFlag then Config.one else 0

/-- INV gives the unique inverse (46_inverse R171, R172). -/
def Obligations.InverseIsUniqueInverse : Prop :=
  (∀ a : Element, a ≠ 0 → mulred a (inverse a) = Config.one) ∧
  (∀ a b : Element, mulred a b = Config.one → b = inverse a) ∧
  (∀ a : Element, a ≠ 0 → inverse (inverse a) = a) ∧
  (∀ a : Element, a ≠ 0 → inverse a = power a (BitVec.ofNat 173 (2 ^ 173 - 2)))

/-- Formatting and parsing back gives the element, in both encodings (47_text R188). -/
def Obligations.TextRoundTrips : Prop :=
  ∀ (rs1 rd : RegIx) (s : State),
    (∃ t u, exec (.fmtb rs1) s = .next t ∧ exec (.parseb rd) t = .next u ∧ readF u rd = readF s rs1 ∧ u.err = 0) ∧
    (∃ t u, exec (.fmth rs1) s = .next t ∧ exec (.parseh rd) t = .next u ∧ readF u rd = readF s rs1 ∧ u.err = 0)

/-! ## Over all commands -/

/-- A command that ends with an error has written ERR, STICKY and BUSY and nothing else (60_exceptions R212). -/
def Obligations.ErrorsWriteOnlyStatus : Prop :=
  ∀ (i : Instr) (s : State), ∃ t, exec i s = .next t ∧ (t.err ≠ 0 → Raised t.err s t)

/-- Which STATUS fields a command writes, with and without an error (10_state R37). -/
def Obligations.StatusFieldsByCommand : Prop :=
  ∀ (i : Instr) (s : State), ∃ t, exec i s = .next t ∧ t.busy = false ∧
    (t.err = 0 → t.sticky = s.sticky ∧ ((∀ rs1, i ≠ .trace rs1) → t.trFlag = s.trFlag) ∧
      ((∀ rs1 rs2, i ≠ .eq rs1 rs2) → t.eqFlag = s.eqFlag)) ∧
    (t.err ≠ 0 → t.sticky = true ∧ t.trFlag = s.trFlag ∧ t.eqFlag = s.eqFlag)

/-- A command completes with 0 or one of the codes the table gives it (60_exceptions R211). -/
def Obligations.ErrorCodesByCommand : Prop :=
  ∀ (i : Instr) (s t : State), i.WellFormed → exec i s = .next t → t.err = 0 ∨ t.err ∈ errorCodes i

/-- A command changes no register but its destination, W only if it is one of the five, TXT and TLEN only if it is a
formatter, TR only if it is TRACE, EQ only if it is EQ, STICKY only to 1 and only with an error, and never LASTCMD or
OVERRUN (10_state R20, R23, R24, R37). It ends with BUSY = 0, its word pending no longer (R29). -/
def Obligations.CommandsChangeOnlyNamedState : Prop :=
  ∀ (i : Instr) (s t : State), exec i s = .next t →
    (∀ r, destination i ≠ some r → readF t r = readF s r) ∧ (¬ WritesW i → t.w = s.w) ∧
    (¬ WritesText i → (∀ k, readByte t.txt k = readByte s.txt k) ∧ t.len = s.len) ∧
    (∀ k, t.len.toNat ≤ k → readByte t.txt k = readByte s.txt k) ∧
    ((∀ rs1, i ≠ .trace rs1) → t.trFlag = s.trFlag) ∧ ((∀ rs1 rs2, i ≠ .eq rs1 rs2) → t.eqFlag = s.eqFlag) ∧
    (t.sticky = true ↔ s.sticky = true ∨ t.err ≠ 0) ∧ t.pend = none ∧ t.busy = false ∧ SameRest s t

/-- A command's results depend only on its operands (20_memory R63). -/
def Obligations.ResultsDependOnOperandsOnly : Prop :=
  ∀ (i : Instr) (s s' t t' : State), SameOperands i s s' → exec i s = .next t → exec i s' = .next t' →
    t.err = t'.err ∧ (t.err = 0 → SameResults i t t')

/-! ## The engine and the host -/

/-- On the engine's turn the step is the decoded command's (70_reset_and_hazards R250). Whose turn it is, is the model's
choice of log entries 3 and 16. -/
def Obligations.StepRunsDecodedCommand : Prop :=
  ∀ (s : State) (c : Word32) (i : Instr), EngineTurn s c → decode c = .command i → step s = exec i s

/-- CMD: a write while BUSY = 0 is accepted, whatever the host does next, and then executed; a write while BUSY = 1 is
dropped; a read returns the last accepted word (10_state R26). That the engine moves at once when no host event is left
is the model's choice of log entry 3 (DESIGN CHOICE). -/
def Obligations.CmdRegisterAcceptsAndRuns : Prop :=
  (∀ (s : State) (c : Word32) (rest : List Event), HostTurn s (hw 0x000 c) rest → s.inReset = false → s.pend = none →
    ∃ t, step s = .next t ∧ t.resp = some .ok ∧ t.inbox = rest ∧ t.lastcmd = c ∧ t.pend = some c ∧ t.busy = true ∧
      SameData s t ∧ SameFlags s t ∧ t.err = s.err ∧ t.sticky = s.sticky ∧ t.overrun = s.overrun ∧
      t.inReset = false ∧ (rest = [] → ∀ i, decode c = .command i → step t = exec i t)) ∧
  (∀ (s : State) (c : Word32) (rest : List Event), HostTurn s (hw 0x000 c) rest → s.inReset = false → s.busy = true →
    ∃ t, step s = .next t ∧ t.lastcmd = s.lastcmd ∧ t.pend = s.pend ∧ t.overrun = true) ∧
  (∀ (s : State) (rest : List Event), HostTurn s (hr 0x000) rest → s.inReset = false →
    ∃ t, step s = .next t ∧ t.resp = some (.data s.lastcmd) ∧ SameBlock s t) ∧
  State.reset.lastcmd = 0x00000000

/-- A pending command completes after at most `wait` served host events (70_reset_and_hazards R251). The count of events is
the model's form of LATENCY, log entry 3 (DESIGN CHOICE). -/
def Obligations.PendingCommandCompletes : Prop :=
  ∀ (s : State) (c : Word32), s.pend = some c → s.inReset = false → (∀ e ∈ s.inbox.take s.wait, served e = true) →
    ∃ n, n ≤ s.wait + 1 ∧ ∃ t, Host.Core.run Sys2Proof.core n s = .next t ∧ t.busy = false

/-- Nothing a host writes while BUSY = 1 changes the pending command or its operands (20_memory R66, R63). -/
def Obligations.PendingCommandStable : Prop :=
  ∀ (s : State) (c : Word32) (e : Event) (rest : List Event), s.pend = some c → s.inReset = false →
    HostTurn s e rest → served e = true →
    ∃ t, step s = .next t ∧ t.pend = some c ∧ t.lastcmd = s.lastcmd ∧ SameData s t ∧ SameFlags s t ∧ t.err = s.err

/-- STICKY: set by every command that completes with an error and by nothing else, cleared only by a STATUS write of bit 8
or by reset (10_state R33). -/
def Obligations.StickyRecordsErrors : Prop :=
  ∀ s t : State, step s = .next t →
    (∀ c, EngineTurn s c → (t.err ≠ 0 → t.sticky = true) ∧ (t.err = 0 → t.sticky = s.sticky)) ∧
    (s.sticky = false → t.sticky = true → ∃ c, EngineTurn s c ∧ t.err ≠ 0) ∧
    (s.sticky = true → t.sticky = false →
      (∃ v rest, HostTurn s (hw 0x004 v) rest ∧ v.getLsbD 8 = true) ∨ ∃ b rest, HostTurn s (.resetLevel b) rest)

/-- OVERRUN: set by a write to a storing offset that arrives while BUSY = 1 and by nothing else, cleared only by a STATUS
write of bit 9 or by reset (10_state R34). -/
def Obligations.OverrunRecordsDroppedWrites : Prop :=
  ∀ s t : State, step s = .next t →
    (∀ off v rest, HostTurn s (hw off v) rest → s.busy = true → StoringOffset off → t.overrun = true) ∧
    (s.overrun = false → t.overrun = true →
      ∃ off v rest, HostTurn s (hw off v) rest ∧ s.busy = true ∧ StoringOffset off) ∧
    (s.overrun = true → t.overrun = false →
      (∃ v rest, HostTurn s (hw 0x004 v) rest ∧ v.getLsbD 9 = true) ∨ ∃ b rest, HostTurn s (.resetLevel b) rest)

/-- TR, EQ and ERR change only by the engine: TR by a TRACE without error, EQ by an EQ without error, or by reset
(10_state R30, R31, R32). -/
def Obligations.ResultFlagsHaveOneWriter : Prop :=
  ∀ s t : State, step s = .next t → (∀ b rest, ¬ HostTurn s (.resetLevel b) rest) →
    (t.trFlag ≠ s.trFlag → ∃ c rs1, EngineTurn s c ∧ decode c = .command (.trace rs1) ∧ t.err = 0 ∧
      t.trFlag = (traceAcc (readF s rs1)).getLsbD 0) ∧
    (t.eqFlag ≠ s.eqFlag → ∃ c rs1 rs2, EngineTurn s c ∧ decode c = .command (.eq rs1 rs2) ∧ t.err = 0 ∧
      (t.eqFlag = true ↔ readF s rs1 = readF s rs2)) ∧
    (t.err ≠ s.err → ∃ c, EngineTurn s c)

/-! ## The register window -/

/-- A misaligned access gets a bus error and changes nothing of the block (20_memory R52). -/
def Obligations.MisalignedAccessIsBusError : Prop :=
  ∀ (s : State) (off : Offset) (op : BusOp) (rest : List Event), off.toNat % 4 ≠ 0 → s.inReset = false →
    HostTurn s (.access .bits32 (Config.gfBase + off.toNat) op) rest →
    ∃ t, step s = .next t ∧ t.resp = some .busError ∧ SameBlock s t ∧ t.inbox = rest

/-- A write to a storing offset while BUSY = 1 is dropped, sets OVERRUN and gets a normal answer; STATUS is exempt
(70_reset_and_hazards R252). -/
def Obligations.BusyWriteIsDropped : Prop :=
  (∀ (s : State) (off : Offset) (v : Word32) (rest : List Event), HostTurn s (hw off v) rest → s.inReset = false →
    s.busy = true → StoringOffset off →
    ∃ t, step s = .next t ∧ t.overrun = true ∧ t.resp = some .ok ∧ SameData s t ∧ SameFlags s t ∧
      t.lastcmd = s.lastcmd ∧ t.pend = s.pend ∧ t.err = s.err ∧ t.sticky = s.sticky ∧ t.inbox = rest) ∧
  (∀ (s : State) (v : Word32) (rest : List Event), HostTurn s (hw 0x004 v) rest → s.inReset = false → s.busy = true →
    ∃ t, step s = .next t ∧ (v.getLsbD 8 = true → t.sticky = false) ∧ (v.getLsbD 9 = true → t.overrun = false) ∧
      (v.getLsbD 9 = false → t.overrun = s.overrun))

/-- STATUS: every field as a host reads it, BUSY or not, the two write-1-to-clear bits, and its reset value
(10_state R28). -/
def Obligations.StatusRegisterFields : Prop :=
  (∀ (s : State) (rest : List Event), HostTurn s (hr 0x004) rest → s.inReset = false →
    ∃ t v, step s = .next t ∧ t.resp = some (.data v) ∧ v.getLsbD 0 = s.busy ∧ v.getLsbD 1 = s.trFlag ∧
      v.getLsbD 2 = s.eqFlag ∧ v.getLsbD 3 = false ∧ (∀ j, j < 4 → v.getLsbD (4 + j) = s.err.getLsbD j) ∧
      v.getLsbD 8 = s.sticky ∧ v.getLsbD 9 = s.overrun ∧ (∀ j, 10 ≤ j → v.getLsbD j = false) ∧ SameBlock s t) ∧
  (∀ (s : State) (v : Word32) (rest : List Event), HostTurn s (hw 0x004 v) rest → s.inReset = false →
    ∃ t, step s = .next t ∧ t.resp = some .ok ∧ (t.sticky = true ↔ s.sticky = true ∧ v.getLsbD 8 = false) ∧
      (t.overrun = true ↔ s.overrun = true ∧ v.getLsbD 9 = false) ∧ SameData s t ∧ SameFlags s t ∧ t.err = s.err ∧
      t.pend = s.pend ∧ t.lastcmd = s.lastcmd) ∧
  (State.reset.busy = false ∧ State.reset.trFlag = false ∧ State.reset.eqFlag = false ∧ State.reset.err = 0 ∧
    State.reset.sticky = false ∧ State.reset.overrun = false)

/-- The element windows: a write of word w replaces bits 32w … 32w+31 of F[i] as far as they exist, a read returns them,
zero above bit 172 (20_memory R55, R56). -/
def Obligations.ElementWindowWords : Prop :=
  (∀ (s : State) (r : RegIx) (w : Nat) (v : Word32) (rest : List Event), w < 8 →
    HostTurn s (hw (elemOffset r w) v) rest → s.inReset = false → s.pend = none →
    ∃ t, step s = .next t ∧ t.resp = some .ok ∧
      (∀ b, b < 173 → (readF t r).getLsbD b = if b / 32 = w then v.getLsbD (b % 32) else (readF s r).getLsbD b) ∧
      ElementOnly r s t ∧ t.pend = none ∧ t.lastcmd = s.lastcmd ∧ t.err = s.err ∧ t.sticky = s.sticky ∧
      t.overrun = s.overrun) ∧
  (∀ (s : State) (r : RegIx) (w : Nat) (rest : List Event), w < 8 → HostTurn s (hr (elemOffset r w)) rest →
    s.inReset = false → s.pend = none →
    ∃ t v, step s = .next t ∧ t.resp = some (.data v) ∧
      (∀ j, j < 32 → v.getLsbD j = (readF s r).getLsbD (32 * w + j)) ∧ SameBlock s t)

/-- The accumulator window (20_memory R57). -/
def Obligations.AccumulatorWindowWords : Prop :=
  (∀ (s : State) (w : Nat) (v : Word32) (rest : List Event), w < 16 → HostTurn s (hw (accOffset w) v) rest →
    s.inReset = false → s.pend = none →
    ∃ t, step s = .next t ∧ t.resp = some .ok ∧
      (∀ b, b < 345 → t.w.getLsbD b = if b / 32 = w then v.getLsbD (b % 32) else s.w.getLsbD b) ∧
      AccumulatorOnly s t ∧ t.pend = none ∧ t.lastcmd = s.lastcmd ∧ t.err = s.err ∧ t.sticky = s.sticky ∧
      t.overrun = s.overrun) ∧
  (∀ (s : State) (w : Nat) (rest : List Event), w < 16 → HostTurn s (hr (accOffset w)) rest → s.inReset = false →
    s.pend = none →
    ∃ t v, step s = .next t ∧ t.resp = some (.data v) ∧
      (∀ j, j < 32 → v.getLsbD j = s.w.getLsbD (32 * w + j)) ∧ SameBlock s t)

/-- The text window: four characters a word, byte lane j is TXT[4k+j] (20_memory R58). -/
def Obligations.TextWindowWords : Prop :=
  (∀ (s : State) (k : Nat) (v : Word32) (rest : List Event), k < 64 → HostTurn s (hw (txtOffset k) v) rest →
    s.inReset = false → s.pend = none →
    ∃ t, step s = .next t ∧ t.resp = some .ok ∧
      (∀ q, readByte t.txt q = if q / 4 = k then v.extractLsb' (8 * (q % 4)) 8 else readByte s.txt q) ∧
      (∀ r, readF t r = readF s r) ∧ t.w = s.w ∧ t.len = s.len ∧ SameFlags s t ∧ t.pend = none ∧
      t.lastcmd = s.lastcmd ∧ t.err = s.err ∧ t.sticky = s.sticky ∧ t.overrun = s.overrun) ∧
  (∀ (s : State) (k : Nat) (rest : List Event), k < 64 → HostTurn s (hr (txtOffset k)) rest → s.inReset = false →
    s.pend = none →
    ∃ t v, step s = .next t ∧ t.resp = some (.data v) ∧
      (∀ j, j < 4 → v.extractLsb' (8 * j) 8 = readByte s.txt (4 * k + j)) ∧ SameBlock s t)

/-- Reserved offsets and words read 0 and ignore writes, without OVERRUN (20_memory R59; while BUSY = 1 their reads fall
under R62, log entry 6). -/
def Obligations.ReservedOffsetsReadZero : Prop :=
  (∀ (s : State) (off : Offset) (rest : List Event), ReservedOffset off → HostTurn s (hr off) rest →
    s.inReset = false → s.pend = none → ∃ t, step s = .next t ∧ t.resp = some (.data 0) ∧ SameBlock s t) ∧
  (∀ (s : State) (off : Offset) (v : Word32) (rest : List Event), ReservedOffset off → HostTurn s (hw off v) rest →
    s.inReset = false → ∃ t, step s = .next t ∧ t.resp = some .ok ∧ SameBlock s t)

/-- While BUSY = 1 a read of anything but CMD, STATUS and ID returns some word, the others read exactly, and no read changes
the block (20_memory R62). -/
def Obligations.BusyReadReturnsSomeWord : Prop :=
  ∀ (s : State) (off : Offset) (rest : List Event), HostTurn s (hr off) rest → s.inReset = false → s.busy = true →
    off.toNat % 4 = 0 →
    ∃ t v, step s = .next t ∧ t.resp = some (.data v) ∧ SameBlock s t ∧ (off = 0x000 → v = s.lastcmd) ∧
      (off = 0x004 → v = statusWord s) ∧ (off = 0x00C → v = 0x01020AAD)

/-- Every read is free of side effects, and idempotent while BUSY = 0 (20_memory R60, R61). -/
def Obligations.ReadsHaveNoSideEffect : Prop :=
  (∀ (s : State) (off : Offset) (rest : List Event), HostTurn s (hr off) rest → s.inReset = false →
    ∃ t, step s = .next t ∧ SameBlock s t ∧ t.inbox = rest) ∧
  (∀ (s : State) (off : Offset) (rest : List Event), s.inbox = hr off :: hr off :: rest → s.inReset = false →
    s.pend = none → ∃ t u, step s = .next t ∧ step t = .next u ∧ u.resp = t.resp)

/-- ID reads 0x01020AAD always and ignores writes (10_state R27). TLEN stores bits 8:0 of a write, not clamped, and reads
as 0 above them; a length above 256, and no other, makes a parse raise TXT_RANGE; FMTB and FMTH write LEN, the number of
characters; its reset value is 0 (R35). -/
def Obligations.IdAndLengthRegisters : Prop :=
  (∀ (s : State) (rest : List Event), HostTurn s (hr 0x00C) rest → s.inReset = false →
    ∃ t, step s = .next t ∧ t.resp = some (.data 0x01020AAD) ∧ SameBlock s t) ∧
  (∀ (s : State) (v : Word32) (rest : List Event), HostTurn s (hw 0x00C v) rest → s.inReset = false →
    ∃ t, step s = .next t ∧ t.resp = some .ok ∧ SameBlock s t) ∧
  (∀ (s : State) (v : Word32) (rest : List Event), HostTurn s (hw 0x008 v) rest → s.inReset = false → s.pend = none →
    ∃ t, step s = .next t ∧ t.resp = some .ok ∧ t.len.toNat = v.toNat % 512 ∧ (∀ r, readF t r = readF s r) ∧
      t.w = s.w ∧ (∀ k, readByte t.txt k = readByte s.txt k) ∧ SameFlags s t ∧ t.pend = none ∧ t.lastcmd = s.lastcmd ∧
      t.err = s.err ∧ t.sticky = s.sticky ∧ t.overrun = s.overrun ∧ t.inReset = false ∧ t.inbox = rest) ∧
  (∀ (s : State) (rest : List Event), HostTurn s (hr 0x008) rest → s.inReset = false → s.pend = none →
    ∃ t v, step s = .next t ∧ t.resp = some (.data v) ∧ v.toNat = s.len.toNat ∧ SameBlock s t) ∧
  (∀ (rd : RegIx) (s : State), ∃ t, exec (.parseb rd) s = .next t ∧ (t.err = 5 ↔ 256 < s.len.toNat)) ∧
  (∀ (rd : RegIx) (s : State), ∃ t, exec (.parseh rd) s = .next t ∧ (t.err = 5 ↔ 256 < s.len.toNat)) ∧
  (∀ (rs1 : RegIx) (s : State), ∃ t, exec (.fmtb rs1) s = .next t ∧ t.len.toNat = 173) ∧
  (∀ (rs1 : RegIx) (s : State), ∃ t, exec (.fmth rs1) s = .next t ∧
    t.len.toNat = Nat.log 16 (readF s rs1).toNat + 1) ∧
  State.reset.len = 0

/-- What this model stops on. The spec refuses an access that is not 32 bits wide (20_memory R51) and one while reset is
asserted (70_reset_and_hazards R240). GF_BASE is a multiple of 0x1000 and the window ends 0x1000 above it (20_memory R50);
that an access outside it is the fault outsideWindow is the model's choice of log entry 7 (DEDUCED). Which stop an access
gets that gives grounds for several is the model's choice of log entry 10 (DESIGN CHOICE): outside the window, then reset,
then the width, then alignment. -/
def Obligations.AccessesThatStop : Prop :=
  Config.gfBase % 0x1000 = 0 ∧
  (∀ (s : State) (width : AccessWidth) (a : Nat) (op : BusOp) (rest : List Event),
    HostTurn s (.access width a op) rest → a < Config.gfBase ∨ Config.gfBase + 0x1000 ≤ a →
    step s = .fault .outsideWindow) ∧
  (∀ (s : State) (width : AccessWidth) (off : Offset) (op : BusOp) (rest : List Event),
    HostTurn s (.access width (Config.gfBase + off.toNat) op) rest → width ≠ .bits32 → s.inReset = false →
    step s = .refused .unsupportedWidth) ∧
  (∀ (s : State) (width : AccessWidth) (off : Offset) (op : BusOp) (rest : List Event),
    HostTurn s (.access width (Config.gfBase + off.toNat) op) rest → s.inReset = true →
    step s = .refused .accessDuringReset)

/-! ## Reset and the invariant -/

/-- Reset leaves every piece of state at its reset value, and so does State.reset (10_state R39), whenever it arrives and
whatever is pending (70_reset_and_hazards R240). That the values are taken at every event of the reset input, at its
assertion too and where its level does not change, is the model's choice of log entry 8 (DEDUCED). -/
def Obligations.ResetClearsEverything : Prop :=
  (∀ (s : State) (b : Bool) (rest : List Event), HostTurn s (.resetLevel b) rest →
    ∃ t, step s = .next t ∧ t.inReset = b ∧ t.inbox = rest ∧ (∀ r, readF t r = 0) ∧ t.w = 0 ∧
      (∀ k, readByte t.txt k = 0x00) ∧ t.len = 0 ∧ t.lastcmd = 0 ∧ statusWord t = 0 ∧ t.pend = none) ∧
  ((∀ r, readF State.reset r = 0) ∧ State.reset.w = 0 ∧ (∀ k, readByte State.reset.txt k = 0x00) ∧
    State.reset.len = 0 ∧ State.reset.lastcmd = 0 ∧ statusWord State.reset = 0 ∧ State.reset.pend = none)

/-- The invariant holds at reset. -/
def Obligations.InvariantAtReset : Prop := Inv State.reset

/-- Every step keeps the invariant: TXT canonical, ERR ≤ 8 (93 U10), a pending word is LASTCMD (10_state R26), nothing
pending while reset is asserted (70_reset_and_hazards R240). -/
def Obligations.StepKeepsInvariant : Prop :=
  ∀ s t : State, Inv s → step s = .next t → Inv t
end

