-- ==== Sys2Proof/Laws/Decode.lean ====
section
/-! SUPPORT. The fields of a word and the word of its fields; masking a word field by field. -/

namespace Sys2Proof

/-- Every field of a word built from fields is read back. -/
theorem fieldsOf_wordOf (x : Fields) : fieldsOf (wordOf x) = x := by
  obtain ⟨op, rd, rs1, rs2, rsv, imm⟩ := x
  simp only [fieldsOf, wordOf, Fields.mk.injEq]
  refine ⟨?_, ?_, ?_, ?_, ?_, ?_⟩ <;>
  · apply BitVec.eq_of_getLsbD_eq
    intro i hi
    simp only [BitVec.getLsbD_extractLsb', BitVec.getLsbD_append, hi, decide_true, Bool.true_and]
    repeat rw [if_neg (by omega)]
    try rw [if_pos (by omega)]
    congr 1
    omega

/-- A word is the word of its fields. -/
theorem wordOf_fieldsOf (c : Word32) : wordOf (fieldsOf c) = c := by
  apply BitVec.eq_of_getLsbD_eq
  intro i hi
  simp only [fieldsOf, wordOf, BitVec.getLsbD_append, BitVec.getLsbD_extractLsb']
  split_ifs <;>
  · rw [decide_eq_true (by omega), Bool.true_and]
    congr 1
    omega

theorem wordOf_injective {x y : Fields} (h : wordOf x = wordOf y) : x = y := by
  rw [← fieldsOf_wordOf x, h, fieldsOf_wordOf]

/-- Two words masked: field by field. -/
theorem fieldsOf_and (c d : Word32) :
    fieldsOf (c &&& d) = ⟨(fieldsOf c).op &&& (fieldsOf d).op, (fieldsOf c).rd &&& (fieldsOf d).rd,
      (fieldsOf c).rs1 &&& (fieldsOf d).rs1, (fieldsOf c).rs2 &&& (fieldsOf d).rs2,
      (fieldsOf c).rsv &&& (fieldsOf d).rsv, (fieldsOf c).imm &&& (fieldsOf d).imm⟩ := by
  simp only [fieldsOf, Fields.mk.injEq]
  refine ⟨?_, ?_, ?_, ?_, ?_, ?_⟩ <;>
  · apply BitVec.eq_of_getLsbD_eq
    intro i hi
    simp [hi]

end Sys2Proof
end

