-- ==== Sys2Proof/Laws/State.lean ====
section
/-! SUPPORT. One lemma per field per update of State, true by rfl, and what the updates leave of the views `busy` and
`readF`. -/

namespace Sys2Proof.Machine

variable (s : State) (e : CmdError) (r : RegIx) (v : Element) (p : Product) (str : List Byte) (b : Bool) (x : Word32)
variable (a : Response)

@[simp] theorem complete_f : (complete s).f = s.f := rfl
@[simp] theorem complete_w : (complete s).w = s.w := rfl
@[simp] theorem complete_txt : (complete s).txt = s.txt := rfl
@[simp] theorem complete_len : (complete s).len = s.len := rfl
@[simp] theorem complete_lastcmd : (complete s).lastcmd = s.lastcmd := rfl
@[simp] theorem complete_pend : (complete s).pend = none := rfl
@[simp] theorem complete_trFlag : (complete s).trFlag = s.trFlag := rfl
@[simp] theorem complete_eqFlag : (complete s).eqFlag = s.eqFlag := rfl
@[simp] theorem complete_err : (complete s).err = 0 := rfl
@[simp] theorem complete_sticky : (complete s).sticky = s.sticky := rfl
@[simp] theorem complete_overrun : (complete s).overrun = s.overrun := rfl
@[simp] theorem complete_inReset : (complete s).inReset = s.inReset := rfl
@[simp] theorem complete_inbox : (complete s).inbox = s.inbox := rfl
@[simp] theorem complete_wait : (complete s).wait = s.wait := rfl
@[simp] theorem complete_draws : (complete s).draws = s.draws := rfl
@[simp] theorem complete_resp : (complete s).resp = s.resp := rfl
@[simp] theorem complete_busy : (complete s).busy = false := rfl
@[simp] theorem readF_complete (q : RegIx) : readF (complete s) q = readF s q := rfl

@[simp] theorem raiseCmdError_f : (raiseCmdError e s).f = s.f := rfl
@[simp] theorem raiseCmdError_w : (raiseCmdError e s).w = s.w := rfl
@[simp] theorem raiseCmdError_txt : (raiseCmdError e s).txt = s.txt := rfl
@[simp] theorem raiseCmdError_len : (raiseCmdError e s).len = s.len := rfl
@[simp] theorem raiseCmdError_lastcmd : (raiseCmdError e s).lastcmd = s.lastcmd := rfl
@[simp] theorem raiseCmdError_pend : (raiseCmdError e s).pend = none := rfl
@[simp] theorem raiseCmdError_trFlag : (raiseCmdError e s).trFlag = s.trFlag := rfl
@[simp] theorem raiseCmdError_eqFlag : (raiseCmdError e s).eqFlag = s.eqFlag := rfl
@[simp] theorem raiseCmdError_err : (raiseCmdError e s).err = errorCode e := rfl
@[simp] theorem raiseCmdError_sticky : (raiseCmdError e s).sticky = true := rfl
@[simp] theorem raiseCmdError_overrun : (raiseCmdError e s).overrun = s.overrun := rfl
@[simp] theorem raiseCmdError_inReset : (raiseCmdError e s).inReset = s.inReset := rfl
@[simp] theorem raiseCmdError_inbox : (raiseCmdError e s).inbox = s.inbox := rfl
@[simp] theorem raiseCmdError_wait : (raiseCmdError e s).wait = s.wait := rfl
@[simp] theorem raiseCmdError_draws : (raiseCmdError e s).draws = s.draws := rfl
@[simp] theorem raiseCmdError_resp : (raiseCmdError e s).resp = s.resp := rfl
@[simp] theorem raiseCmdError_busy : (raiseCmdError e s).busy = false := rfl
@[simp] theorem readF_raiseCmdError (q : RegIx) : readF (raiseCmdError e s) q = readF s q := rfl

@[simp] theorem writeF_f : (writeF r v s).f = s.f.set r v := rfl
@[simp] theorem writeF_w : (writeF r v s).w = s.w := rfl
@[simp] theorem writeF_txt : (writeF r v s).txt = s.txt := rfl
@[simp] theorem writeF_len : (writeF r v s).len = s.len := rfl
@[simp] theorem writeF_lastcmd : (writeF r v s).lastcmd = s.lastcmd := rfl
@[simp] theorem writeF_pend : (writeF r v s).pend = s.pend := rfl
@[simp] theorem writeF_trFlag : (writeF r v s).trFlag = s.trFlag := rfl
@[simp] theorem writeF_eqFlag : (writeF r v s).eqFlag = s.eqFlag := rfl
@[simp] theorem writeF_err : (writeF r v s).err = s.err := rfl
@[simp] theorem writeF_sticky : (writeF r v s).sticky = s.sticky := rfl
@[simp] theorem writeF_overrun : (writeF r v s).overrun = s.overrun := rfl
@[simp] theorem writeF_inReset : (writeF r v s).inReset = s.inReset := rfl
@[simp] theorem writeF_inbox : (writeF r v s).inbox = s.inbox := rfl
@[simp] theorem writeF_wait : (writeF r v s).wait = s.wait := rfl
@[simp] theorem writeF_draws : (writeF r v s).draws = s.draws := rfl
@[simp] theorem writeF_resp : (writeF r v s).resp = s.resp := rfl
@[simp] theorem writeF_busy : (writeF r v s).busy = s.busy := rfl

@[simp] theorem writeW_f : (writeW p s).f = s.f := rfl
@[simp] theorem writeW_w : (writeW p s).w = p := rfl
@[simp] theorem writeW_txt : (writeW p s).txt = s.txt := rfl
@[simp] theorem writeW_len : (writeW p s).len = s.len := rfl
@[simp] theorem writeW_lastcmd : (writeW p s).lastcmd = s.lastcmd := rfl
@[simp] theorem writeW_pend : (writeW p s).pend = s.pend := rfl
@[simp] theorem writeW_trFlag : (writeW p s).trFlag = s.trFlag := rfl
@[simp] theorem writeW_eqFlag : (writeW p s).eqFlag = s.eqFlag := rfl
@[simp] theorem writeW_err : (writeW p s).err = s.err := rfl
@[simp] theorem writeW_sticky : (writeW p s).sticky = s.sticky := rfl
@[simp] theorem writeW_overrun : (writeW p s).overrun = s.overrun := rfl
@[simp] theorem writeW_inReset : (writeW p s).inReset = s.inReset := rfl
@[simp] theorem writeW_inbox : (writeW p s).inbox = s.inbox := rfl
@[simp] theorem writeW_wait : (writeW p s).wait = s.wait := rfl
@[simp] theorem writeW_draws : (writeW p s).draws = s.draws := rfl
@[simp] theorem writeW_resp : (writeW p s).resp = s.resp := rfl
@[simp] theorem writeW_busy : (writeW p s).busy = s.busy := rfl
@[simp] theorem readF_writeW (q : RegIx) : readF (writeW p s) q = readF s q := rfl

@[simp] theorem writeString_f : (writeString str s).f = s.f := rfl
@[simp] theorem writeString_w : (writeString str s).w = s.w := rfl
@[simp] theorem writeString_txt : (writeString str s).txt = writeBytes s.txt 0 str := rfl
@[simp] theorem writeString_len : (writeString str s).len = BitVec.ofNat 9 str.length := rfl
@[simp] theorem writeString_lastcmd : (writeString str s).lastcmd = s.lastcmd := rfl
@[simp] theorem writeString_pend : (writeString str s).pend = s.pend := rfl
@[simp] theorem writeString_trFlag : (writeString str s).trFlag = s.trFlag := rfl
@[simp] theorem writeString_eqFlag : (writeString str s).eqFlag = s.eqFlag := rfl
@[simp] theorem writeString_err : (writeString str s).err = s.err := rfl
@[simp] theorem writeString_sticky : (writeString str s).sticky = s.sticky := rfl
@[simp] theorem writeString_overrun : (writeString str s).overrun = s.overrun := rfl
@[simp] theorem writeString_inReset : (writeString str s).inReset = s.inReset := rfl
@[simp] theorem writeString_inbox : (writeString str s).inbox = s.inbox := rfl
@[simp] theorem writeString_wait : (writeString str s).wait = s.wait := rfl
@[simp] theorem writeString_draws : (writeString str s).draws = s.draws := rfl
@[simp] theorem writeString_resp : (writeString str s).resp = s.resp := rfl
@[simp] theorem writeString_busy : (writeString str s).busy = s.busy := rfl
@[simp] theorem readF_writeString (q : RegIx) : readF (writeString str s) q = readF s q := rfl

@[simp] theorem setTr_f : (setTr b s).f = s.f := rfl
@[simp] theorem setTr_w : (setTr b s).w = s.w := rfl
@[simp] theorem setTr_txt : (setTr b s).txt = s.txt := rfl
@[simp] theorem setTr_len : (setTr b s).len = s.len := rfl
@[simp] theorem setTr_lastcmd : (setTr b s).lastcmd = s.lastcmd := rfl
@[simp] theorem setTr_pend : (setTr b s).pend = s.pend := rfl
@[simp] theorem setTr_trFlag : (setTr b s).trFlag = b := rfl
@[simp] theorem setTr_eqFlag : (setTr b s).eqFlag = s.eqFlag := rfl
@[simp] theorem setTr_err : (setTr b s).err = s.err := rfl
@[simp] theorem setTr_sticky : (setTr b s).sticky = s.sticky := rfl
@[simp] theorem setTr_overrun : (setTr b s).overrun = s.overrun := rfl
@[simp] theorem setTr_inReset : (setTr b s).inReset = s.inReset := rfl
@[simp] theorem setTr_inbox : (setTr b s).inbox = s.inbox := rfl
@[simp] theorem setTr_wait : (setTr b s).wait = s.wait := rfl
@[simp] theorem setTr_draws : (setTr b s).draws = s.draws := rfl
@[simp] theorem setTr_resp : (setTr b s).resp = s.resp := rfl
@[simp] theorem setTr_busy : (setTr b s).busy = s.busy := rfl
@[simp] theorem readF_setTr (q : RegIx) : readF (setTr b s) q = readF s q := rfl

@[simp] theorem setEq_f : (setEq b s).f = s.f := rfl
@[simp] theorem setEq_w : (setEq b s).w = s.w := rfl
@[simp] theorem setEq_txt : (setEq b s).txt = s.txt := rfl
@[simp] theorem setEq_len : (setEq b s).len = s.len := rfl
@[simp] theorem setEq_lastcmd : (setEq b s).lastcmd = s.lastcmd := rfl
@[simp] theorem setEq_pend : (setEq b s).pend = s.pend := rfl
@[simp] theorem setEq_trFlag : (setEq b s).trFlag = s.trFlag := rfl
@[simp] theorem setEq_eqFlag : (setEq b s).eqFlag = b := rfl
@[simp] theorem setEq_err : (setEq b s).err = s.err := rfl
@[simp] theorem setEq_sticky : (setEq b s).sticky = s.sticky := rfl
@[simp] theorem setEq_overrun : (setEq b s).overrun = s.overrun := rfl
@[simp] theorem setEq_inReset : (setEq b s).inReset = s.inReset := rfl
@[simp] theorem setEq_inbox : (setEq b s).inbox = s.inbox := rfl
@[simp] theorem setEq_wait : (setEq b s).wait = s.wait := rfl
@[simp] theorem setEq_draws : (setEq b s).draws = s.draws := rfl
@[simp] theorem setEq_resp : (setEq b s).resp = s.resp := rfl
@[simp] theorem setEq_busy : (setEq b s).busy = s.busy := rfl
@[simp] theorem readF_setEq (q : RegIx) : readF (setEq b s) q = readF s q := rfl

@[simp] theorem setOverrun_f : (setOverrun s).f = s.f := rfl
@[simp] theorem setOverrun_w : (setOverrun s).w = s.w := rfl
@[simp] theorem setOverrun_txt : (setOverrun s).txt = s.txt := rfl
@[simp] theorem setOverrun_len : (setOverrun s).len = s.len := rfl
@[simp] theorem setOverrun_lastcmd : (setOverrun s).lastcmd = s.lastcmd := rfl
@[simp] theorem setOverrun_pend : (setOverrun s).pend = s.pend := rfl
@[simp] theorem setOverrun_trFlag : (setOverrun s).trFlag = s.trFlag := rfl
@[simp] theorem setOverrun_eqFlag : (setOverrun s).eqFlag = s.eqFlag := rfl
@[simp] theorem setOverrun_err : (setOverrun s).err = s.err := rfl
@[simp] theorem setOverrun_sticky : (setOverrun s).sticky = s.sticky := rfl
@[simp] theorem setOverrun_overrun : (setOverrun s).overrun = true := rfl
@[simp] theorem setOverrun_inReset : (setOverrun s).inReset = s.inReset := rfl
@[simp] theorem setOverrun_inbox : (setOverrun s).inbox = s.inbox := rfl
@[simp] theorem setOverrun_wait : (setOverrun s).wait = s.wait := rfl
@[simp] theorem setOverrun_draws : (setOverrun s).draws = s.draws := rfl
@[simp] theorem setOverrun_resp : (setOverrun s).resp = s.resp := rfl
@[simp] theorem setOverrun_busy : (setOverrun s).busy = s.busy := rfl
@[simp] theorem readF_setOverrun (q : RegIx) : readF (setOverrun s) q = readF s q := rfl

@[simp] theorem clearStatus_f : (clearStatus x s).f = s.f := rfl
@[simp] theorem clearStatus_w : (clearStatus x s).w = s.w := rfl
@[simp] theorem clearStatus_txt : (clearStatus x s).txt = s.txt := rfl
@[simp] theorem clearStatus_len : (clearStatus x s).len = s.len := rfl
@[simp] theorem clearStatus_lastcmd : (clearStatus x s).lastcmd = s.lastcmd := rfl
@[simp] theorem clearStatus_pend : (clearStatus x s).pend = s.pend := rfl
@[simp] theorem clearStatus_trFlag : (clearStatus x s).trFlag = s.trFlag := rfl
@[simp] theorem clearStatus_eqFlag : (clearStatus x s).eqFlag = s.eqFlag := rfl
@[simp] theorem clearStatus_err : (clearStatus x s).err = s.err := rfl
@[simp] theorem clearStatus_sticky : (clearStatus x s).sticky = (s.sticky && !x.getLsbD 8) := rfl
@[simp] theorem clearStatus_overrun : (clearStatus x s).overrun = (s.overrun && !x.getLsbD 9) := rfl
@[simp] theorem clearStatus_inReset : (clearStatus x s).inReset = s.inReset := rfl
@[simp] theorem clearStatus_inbox : (clearStatus x s).inbox = s.inbox := rfl
@[simp] theorem clearStatus_wait : (clearStatus x s).wait = s.wait := rfl
@[simp] theorem clearStatus_draws : (clearStatus x s).draws = s.draws := rfl
@[simp] theorem clearStatus_resp : (clearStatus x s).resp = s.resp := rfl
@[simp] theorem clearStatus_busy : (clearStatus x s).busy = s.busy := rfl
@[simp] theorem readF_clearStatus (q : RegIx) : readF (clearStatus x s) q = readF s q := rfl

@[simp] theorem respond_f : (respond a s).f = s.f := rfl
@[simp] theorem respond_w : (respond a s).w = s.w := rfl
@[simp] theorem respond_txt : (respond a s).txt = s.txt := rfl
@[simp] theorem respond_len : (respond a s).len = s.len := rfl
@[simp] theorem respond_lastcmd : (respond a s).lastcmd = s.lastcmd := rfl
@[simp] theorem respond_pend : (respond a s).pend = s.pend := rfl
@[simp] theorem respond_trFlag : (respond a s).trFlag = s.trFlag := rfl
@[simp] theorem respond_eqFlag : (respond a s).eqFlag = s.eqFlag := rfl
@[simp] theorem respond_err : (respond a s).err = s.err := rfl
@[simp] theorem respond_sticky : (respond a s).sticky = s.sticky := rfl
@[simp] theorem respond_overrun : (respond a s).overrun = s.overrun := rfl
@[simp] theorem respond_inReset : (respond a s).inReset = s.inReset := rfl
@[simp] theorem respond_inbox : (respond a s).inbox = s.inbox := rfl
@[simp] theorem respond_wait : (respond a s).wait = s.wait := rfl
@[simp] theorem respond_draws : (respond a s).draws = s.draws := rfl
@[simp] theorem respond_resp : (respond a s).resp = some a := rfl
@[simp] theorem respond_busy : (respond a s).busy = s.busy := rfl
@[simp] theorem readF_respond (q : RegIx) : readF (respond a s) q = readF s q := rfl

@[simp] theorem acceptCommand_f : (acceptCommand x s).f = s.f := rfl
@[simp] theorem acceptCommand_w : (acceptCommand x s).w = s.w := rfl
@[simp] theorem acceptCommand_txt : (acceptCommand x s).txt = s.txt := rfl
@[simp] theorem acceptCommand_len : (acceptCommand x s).len = s.len := rfl
@[simp] theorem acceptCommand_lastcmd : (acceptCommand x s).lastcmd = x := rfl
@[simp] theorem acceptCommand_pend : (acceptCommand x s).pend = some x := rfl
@[simp] theorem acceptCommand_trFlag : (acceptCommand x s).trFlag = s.trFlag := rfl
@[simp] theorem acceptCommand_eqFlag : (acceptCommand x s).eqFlag = s.eqFlag := rfl
@[simp] theorem acceptCommand_err : (acceptCommand x s).err = s.err := rfl
@[simp] theorem acceptCommand_sticky : (acceptCommand x s).sticky = s.sticky := rfl
@[simp] theorem acceptCommand_overrun : (acceptCommand x s).overrun = s.overrun := rfl
@[simp] theorem acceptCommand_inReset : (acceptCommand x s).inReset = s.inReset := rfl
@[simp] theorem acceptCommand_inbox : (acceptCommand x s).inbox = s.inbox := rfl
@[simp] theorem acceptCommand_wait : (acceptCommand x s).wait = Config.latency s.draws x (operands s) := rfl
@[simp] theorem acceptCommand_draws : (acceptCommand x s).draws = s.draws + 1 := rfl
@[simp] theorem acceptCommand_resp : (acceptCommand x s).resp = s.resp := rfl
@[simp] theorem acceptCommand_busy : (acceptCommand x s).busy = true := rfl
@[simp] theorem readF_acceptCommand (q : RegIx) : readF (acceptCommand x s) q = readF s q := rfl

@[simp] theorem placeCommand_f : (placeCommand x s).f = s.f := rfl
@[simp] theorem placeCommand_w : (placeCommand x s).w = s.w := rfl
@[simp] theorem placeCommand_txt : (placeCommand x s).txt = s.txt := rfl
@[simp] theorem placeCommand_len : (placeCommand x s).len = s.len := rfl
@[simp] theorem placeCommand_lastcmd : (placeCommand x s).lastcmd = x := rfl
@[simp] theorem placeCommand_pend : (placeCommand x s).pend = some x := rfl
@[simp] theorem placeCommand_trFlag : (placeCommand x s).trFlag = s.trFlag := rfl
@[simp] theorem placeCommand_eqFlag : (placeCommand x s).eqFlag = s.eqFlag := rfl
@[simp] theorem placeCommand_err : (placeCommand x s).err = s.err := rfl
@[simp] theorem placeCommand_sticky : (placeCommand x s).sticky = s.sticky := rfl
@[simp] theorem placeCommand_overrun : (placeCommand x s).overrun = s.overrun := rfl
@[simp] theorem placeCommand_inReset : (placeCommand x s).inReset = false := rfl
@[simp] theorem placeCommand_inbox : (placeCommand x s).inbox = s.inbox := rfl
@[simp] theorem placeCommand_wait : (placeCommand x s).wait = 0 := rfl
@[simp] theorem placeCommand_draws : (placeCommand x s).draws = s.draws := rfl
@[simp] theorem placeCommand_resp : (placeCommand x s).resp = s.resp := rfl
@[simp] theorem placeCommand_busy : (placeCommand x s).busy = true := rfl
@[simp] theorem readF_placeCommand (q : RegIx) : readF (placeCommand x s) q = readF s q := rfl

@[simp] theorem resetBlock_f : (resetBlock b s).f = Vector.replicate 16 0 := rfl
@[simp] theorem resetBlock_w : (resetBlock b s).w = 0 := rfl
@[simp] theorem resetBlock_txt : (resetBlock b s).txt = [] := rfl
@[simp] theorem resetBlock_len : (resetBlock b s).len = 0 := rfl
@[simp] theorem resetBlock_lastcmd : (resetBlock b s).lastcmd = 0 := rfl
@[simp] theorem resetBlock_pend : (resetBlock b s).pend = none := rfl
@[simp] theorem resetBlock_trFlag : (resetBlock b s).trFlag = false := rfl
@[simp] theorem resetBlock_eqFlag : (resetBlock b s).eqFlag = false := rfl
@[simp] theorem resetBlock_err : (resetBlock b s).err = 0 := rfl
@[simp] theorem resetBlock_sticky : (resetBlock b s).sticky = false := rfl
@[simp] theorem resetBlock_overrun : (resetBlock b s).overrun = false := rfl
@[simp] theorem resetBlock_inReset : (resetBlock b s).inReset = b := rfl
@[simp] theorem resetBlock_inbox : (resetBlock b s).inbox = s.inbox := rfl
@[simp] theorem resetBlock_wait : (resetBlock b s).wait = 0 := rfl
@[simp] theorem resetBlock_draws : (resetBlock b s).draws = s.draws := rfl
@[simp] theorem resetBlock_resp : (resetBlock b s).resp = none := rfl
@[simp] theorem resetBlock_busy : (resetBlock b s).busy = false := rfl

end Sys2Proof.Machine
end

