-- ==== Sys2Proof/Laws/Ops.lean ====
section
/-! SUPPORT. Element registers, the words of multi-word values, and the lengths of the formatted strings. -/

namespace Sys2Proof.Machine

/-- A read after a register write. -/
theorem readF_writeF (s : State) (r q : RegIx) (v : Element) :
    readF (writeF r v s) q = if q = r then v else readF s q := by
  have h : readF (writeF r v s) q = (s.f.set r.val v)[q.val] := rfl
  rw [h, Vector.getElem_set]
  by_cases e : q = r
  · subst e
    simp
  · have : ¬ r.val = q.val := fun hv => e (Fin.ext hv.symm)
    simp [e, this]
    rfl

@[simp] theorem readF_writeF_self (s : State) (r : RegIx) (v : Element) : readF (writeF r v s) r = v := by
  simp [readF_writeF]

theorem readF_writeF_ne (s : State) {r q : RegIx} (h : q ≠ r) (v : Element) :
    readF (writeF r v s) q = readF s q := by
  simp [readF_writeF, h]

@[simp] theorem readF_resetBlock (b : Bool) (s : State) (q : RegIx) : readF (resetBlock b s) q = 0 := by
  show (Vector.replicate 16 (0 : Element))[q.val] = 0
  simp

/-- Bit j of word k is bit 32k + j of the value. -/
theorem getLsbD_getWord {n : Nat} (v : BitVec n) (k j : Nat) (hj : j < 32) :
    (getWord v k).getLsbD j = v.getLsbD (32 * k + j) := by
  simp [getWord, hj]

/-- Replacing word k changes bits 32k … 32k + 31, as far as the value has them, and no other. -/
theorem getLsbD_putWord {n : Nat} (v : BitVec n) (k : Nat) (x : Word32) (b : Nat) (hb : b < n) :
    (putWord v k x).getLsbD b = if b / 32 = k then x.getLsbD (b % 32) else v.getLsbD b := by
  have hones : ∀ i, (4294967295#32 : BitVec 32).getLsbD i = decide (i < 32) := by
    intro i
    have : (4294967295#32 : BitVec 32) = BitVec.allOnes 32 := by decide
    rw [this, BitVec.getLsbD_allOnes]
  by_cases h : b / 32 = k
  · have h1 : ¬ b < 32 * k := by omega
    have h2 : b - 32 * k = b % 32 := by omega
    have h3 : b % 32 < 32 := Nat.mod_lt _ (by decide)
    simp [putWord, hb, h, h1, h2, h3, hones]
  · by_cases h1 : b < 32 * k
    · simp [putWord, hb, h, h1]
    · have h2 : 32 ≤ b - 32 * k := by omega
      have h3 : ¬ b - 32 * k < 32 := by omega
      have h5 : x.getLsbD (b - 32 * k) = false := BitVec.getLsbD_of_ge _ _ h2
      simp [putWord, hb, h, h1, h3, h5, hones]

@[simp] theorem length_binString (a : Element) : (binString a).length = 173 := by
  simp [binString]

/-- The minimal hexadecimal string has as many characters as the value has base-16 digits, and one for zero
(47_text R187). -/
theorem length_hexString (a : Element) : (hexString a).length = Nat.log 16 a.toNat + 1 := by
  unfold hexString
  split
  case isTrue h => simp [h]
  case isFalse h =>
    have ha : a.toNat ≠ 0 := fun h => by simp_all [← BitVec.toNat_inj]
    have hlog : Nat.log 16 a.toNat = Nat.log 2 a.toNat / 4 := by
      refine Nat.log_eq_of_pow_le_of_lt_pow ?_ ?_ <;> rw [show 16 = 2 ^ 4 from rfl, ← pow_mul]
      · exact (Nat.pow_le_pow_right (by omega) (by omega)).trans (Nat.pow_log_le_self 2 ha)
      · exact (Nat.lt_pow_succ_log_self (by omega) _).trans_le (Nat.pow_le_pow_right (by omega) (by omega))
    simp only [List.length_map, List.length_range, hexDigits, Nat.log2_eq_log_two]
    omega

/-- The minimal hexadecimal string has at most 44 characters. -/
theorem length_hexString_le (a : Element) : (hexString a).length ≤ 44 := by
  unfold hexString
  split
  · simp
  · have h : a.toNat.log2 < 173 := by
      have ha : a.toNat ≠ 0 := fun h => by simp_all [← BitVec.toNat_inj]
      exact (Nat.log2_lt ha).mpr a.isLt
    simp only [List.length_map, List.length_range, hexDigits]
    omega

@[simp] theorem length_bytesOfWord (v : Word32) : (bytesOfWord v).length = 4 := rfl

@[simp] theorem length_textString (s : State) : (textString s).length = textLength s := by
  simp [textString]

end Sys2Proof.Machine
end

