-- ==== Sys2Proof/Laws/Exec.lean ====
section
/-! SUPPORT. What a command can do, said once: it raises an error, or it completes after one of six kinds of write. -/

namespace Sys2Proof.Machine

/-- The ways a command ends (60_exceptions R212, R213). -/
inductive Ending (s : State) : State → Prop where
  | raised (e : CmdError) : Ending s (raiseCmdError e s)
  | element (r : RegIx) (v : Element) : Ending s (complete (writeF r v s))
  | accumulator (p : Product) : Ending s (complete (writeW p s))
  | both (r : RegIx) (v : Element) (p : Product) : Ending s (complete (writeW p (writeF r v s)))
  | string (str : List Byte) (h : str.length ≤ 173) : Ending s (complete (writeString str s))
  | tr (b : Bool) : Ending s (complete (setTr b s))
  | eq (b : Bool) : Ending s (complete (setEq b s))

theorem exec_ending (i : Instr) (s : State) : ∃ t, exec i s = .next t ∧ Ending s t := by
  cases i with
  | zero rd => exact ⟨_, rfl, .element _ _⟩
  | mov rd rs1 => exact ⟨_, rfl, .element _ _⟩
  | add rd rs1 rs2 => exact ⟨_, rfl, .element _ _⟩
  | mul rd rs1 rs2 => exact ⟨_, rfl, .element _ _⟩
  | sqr rd rs1 => exact ⟨_, rfl, .element _ _⟩
  | pow rd rs1 rs2 => exact ⟨_, rfl, .element _ _⟩
  | inv rd rs1 =>
    refine ⟨_, rfl, ?_⟩
    split
    · exact .raised _
    · exact .element _ _
  | trace rs1 =>
    refine ⟨_, rfl, ?_⟩
    split
    · exact .tr _
    · exact .raised _
  | eq rs1 rs2 => exact ⟨_, rfl, .eq _⟩
  | wclr => exact ⟨_, rfl, .accumulator _⟩
  | wxor rs1 sh =>
    refine ⟨_, rfl, ?_⟩
    split
    · exact .accumulator _
    · exact .raised _
  | clmul rs1 rs2 => exact ⟨_, rfl, .accumulator _⟩
  | spread rs1 => exact ⟨_, rfl, .accumulator _⟩
  | red rd => exact ⟨_, rfl, .both _ _ _⟩
  | parseb rd =>
    refine ⟨_, rfl, ?_⟩
    split
    · exact .raised _
    · split
      · exact .raised _
      · split
        · exact .element _ _
        · exact .raised _
  | parseh rd =>
    refine ⟨_, rfl, ?_⟩
    split
    · exact .raised _
    · split
      · split
        · exact .raised _
        · exact .element _ _
      · exact .raised _
  | fmtb rs1 => exact ⟨_, rfl, .string _ (by simp)⟩
  | fmth rs1 => exact ⟨_, rfl, .string _ (by have := length_hexString_le (readF s rs1); omega)⟩

/-- Whatever a command does, it leaves BUSY = 0. -/
theorem Ending.busy {s t : State} (h : Ending s t) : t.busy = false := by
  cases h <;> rfl

end Sys2Proof.Machine
end

