-- ==== Sys2Proof/Laws/Gf.lean ====
section
/-! SUPPORT. One equation per loop of the datapath: what one more iteration does. -/

namespace Sys2Proof.Machine

@[simp] theorem clmulRows_zero (a b : Element) : clmulRows a b 0 = 0 := rfl

theorem clmulRows_succ (a b : Element) (n : Nat) :
    clmulRows a b (n + 1) = clmulRows a b n ^^^ (if b.getLsbD n then a.setWidth 345 <<< n else 0) := by
  by_cases h : b.getLsbD n <;> simp [clmulRows, h]

@[simp] theorem reduceLoop_zero (p : Product) : reduceLoop 0 p = p := rfl

theorem reduceLoop_succ (n : Nat) (p : Product) :
    reduceLoop (n + 1) p = reduceLoop n (p ^^^ (if p.getLsbD (173 + n) then polyShifted n else 0)) := by
  by_cases h : p.getLsbD (173 + n) <;> simp [reduceLoop, h]

@[simp] theorem spreadBits_zero (a : Element) : spreadBits a 0 = 0 := rfl

theorem spreadBits_succ (a : Element) (n : Nat) :
    spreadBits a (n + 1) = spreadBits a n ||| (if a.getLsbD n then (1 : Product) <<< (2 * n) else 0) := by
  by_cases h : a.getLsbD n <;> simp [spreadBits, h]

@[simp] theorem powLoop_zero (base e : Element) : powLoop base e 0 = (Config.one, base) := rfl

theorem powLoop_succ (base e : Element) (n : Nat) :
    powLoop base e (n + 1) =
      (if e.getLsbD n then mulred (powLoop base e n).1 (powLoop base e n).2 else (powLoop base e n).1,
        sqr (powLoop base e n).2) := rfl

@[simp] theorem traceLoop_zero (a : Element) : traceLoop a 0 = (a, a) := rfl

theorem traceLoop_succ (a : Element) (n : Nat) :
    traceLoop a (n + 1) = ((traceLoop a n).1 ^^^ sqr (traceLoop a n).2, sqr (traceLoop a n).2) := rfl

@[simp] theorem invLoop_zero (a : Element) : invLoop a 0 = (a, a) := rfl

theorem invLoop_succ (a : Element) (n : Nat) :
    invLoop a (n + 1) = (mulred (invLoop a n).1 (sqr (invLoop a n).2), sqr (invLoop a n).2) := rfl

/-- POLY << (i − 173) has bits i, i−163, i−171, i−172 and i−173 (00_scope R16). -/
theorem getLsbD_polyShifted (n j : Nat) (hn : n < 172) :
    (polyShifted n).getLsbD j = decide (j = n + 173 ∨ j = n + 10 ∨ j = n + 2 ∨ j = n + 1 ∨ j = n) := by
  have hp : ∀ k, Config.poly.getLsbD k = decide (k = 173 ∨ k = 10 ∨ k = 2 ∨ k = 1 ∨ k = 0) := by
    intro k
    by_cases hk : k < 174
    · interval_cases k <;> decide
    · rw [BitVec.getLsbD_of_ge _ _ (by omega)]
      symm
      simp only [decide_eq_false_iff_not]
      omega
  unfold polyShifted
  rw [BitVec.getLsbD_shiftLeft, BitVec.getLsbD_setWidth, hp]
  by_cases h1 : j < n
  · simp [h1]
    omega
  · by_cases h2 : j < 345
    · have h3 : j - n < 345 := by omega
      simp only [h1, h2, h3, decide_true, decide_false, Bool.not_false, Bool.true_and]
      congr 1
      simp only [eq_iff_iff]
      omega
    · simp [h2]
      omega

end Sys2Proof.Machine
end

