-- ==== Sys2Proof/Laws/Memory.lean ====
section
/-! SUPPORT. The text buffer: a read after a write, and the canonical form, which every write keeps. -/

namespace Sys2Proof.Machine

@[simp] theorem readByte_nil (k : Nat) : readByte [] k = unlistedByte := rfl

theorem readByte_cons (c : Host.Cell) (m : Memory) (k : Nat) :
    readByte (c :: m) k = if c.1 = k then c.2 else readByte m k := rfl

theorem readByte_eraseByte_self (m : Memory) (k : Nat) : readByte (eraseByte m k) k = unlistedByte := by
  induction m with
  | nil => rfl
  | cons c m ih =>
    by_cases h : c.1 = k <;> simp_all [eraseByte, readByte_cons]

theorem readByte_eraseByte_ne (m : Memory) {j k : Nat} (h : j ≠ k) :
    readByte (eraseByte m k) j = readByte m j := by
  induction m with
  | nil => rfl
  | cons c m ih =>
    by_cases hk : c.1 = k
    · have : c.1 ≠ j := fun hj => h (hj ▸ hk)
      simp_all [eraseByte, readByte_cons]
    · simp_all [eraseByte, readByte_cons]

theorem readByte_insertCell (m : Memory) (k : Nat) (v : Byte) (hk : ∀ c ∈ m, c.1 ≠ k) (j : Nat) :
    readByte (insertCell k v m) j = if j = k then v else readByte m j := by
  induction m with
  | nil =>
    by_cases h : j = k
    · simp [insertCell, readByte_cons, h]
    · simp [insertCell, readByte_cons, h, Ne.symm h]
  | cons c m ih =>
    have ih := ih (fun d hd => hk d (List.mem_cons_of_mem _ hd))
    have hc := hk c List.mem_cons_self
    unfold insertCell
    split
    · by_cases h : j = k
      · simp [readByte_cons, h]
      · simp [readByte_cons, h, Ne.symm h]
    · rw [readByte_cons, ih]
      by_cases h : j = k
      · simp [h, hc]
      · simp [h, readByte_cons]

theorem ne_of_mem_eraseByte {m : Memory} {k : Nat} {c : Host.Cell} (h : c ∈ eraseByte m k) : c.1 ≠ k := by
  simpa using (List.mem_filter.mp h).2

/-- A read after a write: the written byte at its index, every other byte as before. -/
theorem readByte_writeByte (m : Memory) (k : Nat) (v : Byte) (j : Nat) :
    readByte (writeByte m k v) j = if j = k then v else readByte m j := by
  unfold writeByte
  split
  case isTrue hv =>
    by_cases h : j = k
    · simp [h, hv, readByte_eraseByte_self]
    · simp [h, readByte_eraseByte_ne m h]
  case isFalse =>
    rw [readByte_insertCell _ _ _ (fun c hc => ne_of_mem_eraseByte hc)]
    by_cases h : j = k
    · simp [h]
    · simp [h, readByte_eraseByte_ne m h]

/-- A read after writing a list of bytes from index k. -/
theorem readByte_writeBytes (vs : List Byte) (m : Memory) (k j : Nat) :
    readByte (writeBytes m k vs) j = if k ≤ j then (vs[j - k]?).getD (readByte m j) else readByte m j := by
  induction vs generalizing m k with
  | nil => simp [writeBytes]
  | cons v vs ih =>
    rw [writeBytes, ih, readByte_writeByte]
    rcases Nat.lt_trichotomy j k with h | h | h
    · have h1 : ¬ k + 1 ≤ j := by omega
      have h2 : ¬ k ≤ j := by omega
      have h3 : j ≠ k := by omega
      simp [h1, h2, h3]
    · subst h
      simp
    · obtain ⟨d, rfl⟩ : ∃ d, j = k + 1 + d := ⟨j - k - 1, by omega⟩
      have e1 : k + 1 + d - (k + 1) = d := by omega
      have e2 : k + 1 + d - k = d + 1 := by omega
      have e3 : k + 1 + d ≠ k := by omega
      simp [e1, e2, e3]
      omega

theorem mem_insertCell {m : Memory} {k : Nat} {v : Byte} {c : Host.Cell} :
    c ∈ insertCell k v m ↔ c = (k, v) ∨ c ∈ m := by
  induction m with
  | nil => simp [insertCell]
  | cons d m ih =>
    unfold insertCell
    split
    · simp
    · simp [ih]
      tauto

theorem pairwise_insertCell {m : Memory} {k : Nat} {v : Byte} (hm : m.Pairwise (fun a b => a.1 < b.1))
    (hk : ∀ c ∈ m, c.1 ≠ k) : (insertCell k v m).Pairwise (fun a b => a.1 < b.1) := by
  induction m with
  | nil => simp [insertCell]
  | cons d m ih =>
    obtain ⟨hd, hm'⟩ := List.pairwise_cons.mp hm
    have hdk := hk d List.mem_cons_self
    unfold insertCell
    split
    case isTrue h =>
      refine List.pairwise_cons.mpr ⟨fun c hc => ?_, hm⟩
      rcases List.mem_cons.mp hc with rfl | hc
      · exact h
      · exact Nat.lt_trans h (hd c hc)
    case isFalse h =>
      refine List.pairwise_cons.mpr ⟨fun c hc => ?_, ih hm' (fun c hc => hk c (List.mem_cons_of_mem _ hc))⟩
      rcases mem_insertCell.mp hc with rfl | hc
      · show d.1 < k
        omega
      · exact hd c hc

/-- Erasing keeps the canonical form. -/
theorem wf_eraseByte {m : Memory} (h : Memory.wf m) (k : Nat) : Memory.wf (eraseByte m k) :=
  ⟨h.1.filter _, fun c hc => h.2 c (List.mem_filter.mp hc).1⟩

/-- A write below TXT_CAP keeps the canonical form. -/
theorem wf_writeByte {m : Memory} (h : Memory.wf m) {k : Nat} (hk : k < Config.txtCap) (v : Byte) :
    Memory.wf (writeByte m k v) := by
  have he := wf_eraseByte h k
  unfold writeByte
  split
  case isTrue => exact he
  case isFalse hv =>
    refine ⟨pairwise_insertCell he.1 (fun c hc => ne_of_mem_eraseByte hc), fun c hc => ?_⟩
    rcases mem_insertCell.mp hc with rfl | hc
    · exact ⟨hv, hk⟩
    · exact he.2 c hc

/-- Writing a string that ends by TXT_CAP keeps the canonical form. -/
theorem wf_writeBytes {vs : List Byte} {m : Memory} (h : Memory.wf m) {k : Nat}
    (hk : k + vs.length ≤ Config.txtCap) : Memory.wf (writeBytes m k vs) := by
  induction vs generalizing m k with
  | nil => exact h
  | cons v vs ih =>
    simp only [List.length_cons] at hk
    exact ih (wf_writeByte h (by omega) v) (by omega)

theorem wf_nil : Memory.wf [] := ⟨List.Pairwise.nil, by simp⟩

/-- A listed byte is not what an unlisted one reads as, so two canonical buffers that read alike are equal: see
`readByte_eq_of_mem`. -/
theorem readByte_eq_of_mem {m : Memory} (h : m.Pairwise (fun a b => a.1 < b.1)) {c : Host.Cell} (hc : c ∈ m) :
    readByte m c.1 = c.2 := by
  induction m with
  | nil => simp at hc
  | cons d m ih =>
    obtain ⟨hd, hm⟩ := List.pairwise_cons.mp h
    rcases List.mem_cons.mp hc with rfl | hc
    · simp [readByte_cons]
    · have hlt : d.1 < c.1 := hd c hc
      have : d.1 ≠ c.1 := by omega
      simp [readByte_cons, this, ih hm hc]

end Sys2Proof.Machine
end

