-- ==== Sys2Proof/Laws/PerInstr.lean ====
section
/-! SUPPORT. A fact about the syntax of every command: its word has RSV zero, and IMM8 zero unless it is a WXOR
(30_encoding R83, R85). -/

namespace Sys2Proof.Laws.UnusedFields

/-- RSV is zero, and IMM8 is zero or the shift of a WXOR. -/
def Statement (i : Instr) : Prop :=
  (fieldsOfInstr i).rsv = 0 ∧ ((fieldsOfInstr i).imm = 0 ∨ ∃ rs1 sh, i = .wxor rs1 sh)

theorem zero (rd : RegIx) : Statement (.zero rd) := ⟨rfl, .inl rfl⟩

theorem mov (rd rs1 : RegIx) : Statement (.mov rd rs1) := ⟨rfl, .inl rfl⟩

theorem add (rd rs1 rs2 : RegIx) : Statement (.add rd rs1 rs2) := ⟨rfl, .inl rfl⟩

theorem mul (rd rs1 rs2 : RegIx) : Statement (.mul rd rs1 rs2) := ⟨rfl, .inl rfl⟩

theorem sqr (rd rs1 : RegIx) : Statement (.sqr rd rs1) := ⟨rfl, .inl rfl⟩

theorem pow (rd rs1 rs2 : RegIx) : Statement (.pow rd rs1 rs2) := ⟨rfl, .inl rfl⟩

theorem inv (rd rs1 : RegIx) : Statement (.inv rd rs1) := ⟨rfl, .inl rfl⟩

theorem trace (rs1 : RegIx) : Statement (.trace rs1) := ⟨rfl, .inl rfl⟩

theorem eq (rs1 rs2 : RegIx) : Statement (.eq rs1 rs2) := ⟨rfl, .inl rfl⟩

theorem wclr : Statement .wclr := ⟨rfl, .inl rfl⟩

theorem wxor (rs1 : RegIx) (sh : BitVec 8) : Statement (.wxor rs1 sh) := ⟨rfl, .inr ⟨rs1, sh, rfl⟩⟩

theorem clmul (rs1 rs2 : RegIx) : Statement (.clmul rs1 rs2) := ⟨rfl, .inl rfl⟩

theorem spread (rs1 : RegIx) : Statement (.spread rs1) := ⟨rfl, .inl rfl⟩

theorem red (rd : RegIx) : Statement (.red rd) := ⟨rfl, .inl rfl⟩

theorem parseb (rd : RegIx) : Statement (.parseb rd) := ⟨rfl, .inl rfl⟩

theorem parseh (rd : RegIx) : Statement (.parseh rd) := ⟨rfl, .inl rfl⟩

theorem fmtb (rs1 : RegIx) : Statement (.fmtb rs1) := ⟨rfl, .inl rfl⟩

theorem fmth (rs1 : RegIx) : Statement (.fmth rs1) := ⟨rfl, .inl rfl⟩

end Sys2Proof.Laws.UnusedFields
end

