-- ==== Sys2Proof/Laws/Port.lean ====
section
/-! SUPPORT. The host port: addresses of the window, and what a read, a write and an event can do, said once. -/

namespace Sys2Proof.Machine

/-- A window address is taken apart into its offset (20_memory R50). -/
@[simp] theorem windowOffset_base (off : Offset) : windowOffset (Config.gfBase + off.toNat) = some off := by
  have h : off.toNat < 0x1000 := off.isLt
  have e : Config.gfBase + off.toNat - Config.gfBase = off.toNat := by omega
  simp [windowOffset, h, e]

/-- An address that falls in the window is GF_BASE plus its offset (20_memory R50). -/
theorem eq_of_windowOffset {a : Nat} {off : Offset} (h : windowOffset a = some off) :
    a = Config.gfBase + off.toNat := by
  unfold windowOffset at h
  split at h
  case isTrue hw =>
    simp only [Option.some.injEq] at h
    subst h
    rw [BitVec.toNat_ofNat, Nat.mod_eq_of_lt (by omega)]
    omega
  case isFalse => cases h

/-- Every read leaves everything but the port's answer and the draw counter. -/
theorem hostRead_cases (off : Offset) (s : State) :
    ∃ a d, hostRead off s = { s with resp := some a, draws := d } := by
  unfold hostRead
  split
  · exact ⟨_, _, rfl⟩
  · split <;> exact ⟨_, _, rfl⟩

/-- What a write can do: a bus error without effect, a dropped write, or the write at its place. -/
theorem hostWrite_cases (off : Offset) (v : Word32) (s : State) :
    (misaligned off = true ∧ hostWrite off v s = respond .busError s) ∨
    (misaligned off = false ∧ s.busy = true ∧ storing (locate off) = true ∧
      hostWrite off v s = respond .ok (setOverrun s)) ∨
    (misaligned off = false ∧ (s.busy = true → storing (locate off) = false) ∧
      hostWrite off v s = respond .ok (writeLoc v s (locate off))) := by
  unfold hostWrite
  cases misaligned off <;> cases s.busy <;> cases storing (locate off) <;> simp

/-- What an event that does not stop the machine can do: set the reset level, or perform a 32-bit access of the window
outside reset. -/
theorem performEvent_next {e : Event} {s t : State} (h : performEvent e s = .next t) :
    (∃ b, e = .resetLevel b ∧ t = resetBlock b s) ∨
    (∃ addr off op, e = .access .bits32 addr op ∧ windowOffset addr = some off ∧ s.inReset = false ∧
      t = performOp off op s) := by
  cases e with
  | resetLevel b =>
    simp only [performEvent, Host.Outcome.next.injEq] at h
    exact .inl ⟨b, rfl, h.symm⟩
  | access width addr op =>
    simp only [performEvent, performAccess] at h
    split at h
    · cases h
    · rename_i off hoff
      split at h
      · cases h
      · rename_i hr
        split at h
        · rename_i hw
          subst hw
          simp only [Host.Outcome.next.injEq] at h
          exact .inr ⟨addr, off, op, rfl, hoff, by simpa using hr, h.symm⟩
        · cases h

/-- A 32-bit access of the window outside reset is performed. -/
theorem performEvent_access (off : Offset) (op : BusOp) {s : State} (h : s.inReset = false) :
    performEvent (.access .bits32 (Config.gfBase + off.toNat) op) s = .next (performOp off op s) := by
  simp [performEvent, performAccess, h]

end Sys2Proof.Machine
end

