-- ==== Sys2Proof/Laws/Step.lean ====
section
/-! SUPPORT. One step, said once: the engine's, an event's, or idle. -/

namespace Sys2Proof.Machine

/-- On the engine's turn the step runs the pending word. -/
theorem step_engine {s : State} {c : Word32} (ht : engineTurn s = true) (hp : s.pend = some c) :
    step s = runWord c s := by
  simp [step, ht, engineStep, hp]

/-- On the host's turn the step performs the oldest event. -/
theorem step_event {s : State} {e : Event} {rest : List Event} (ht : engineTurn s = false)
    (hi : s.inbox = e :: rest) :
    step s = performEvent e { s with inbox := rest, wait := s.wait - 1 } := by
  simp [step, ht, hostStep, hi]

/-- What a step that answers a next state can be. -/
theorem step_cases {s t : State} (h : step s = .next t) :
    (∃ c, engineTurn s = true ∧ s.pend = some c ∧ runWord c s = .next t) ∨
    (∃ e rest, engineTurn s = false ∧ s.inbox = e :: rest ∧
      performEvent e { s with inbox := rest, wait := s.wait - 1 } = .next t) ∨
    (engineTurn s = false ∧ s.inbox = [] ∧ t = s) := by
  unfold step at h
  split at h
  case isTrue ht =>
    have hb : s.pend.isSome = true := by
      simp only [engineTurn, Bool.and_eq_true] at ht
      exact ht.1.1
    obtain ⟨c, hc⟩ := Option.isSome_iff_exists.mp hb
    exact .inl ⟨c, ht, hc, by simpa [engineStep, hc] using h⟩
  case isFalse ht =>
    have ht : engineTurn s = false := by simpa using ht
    cases hi : s.inbox with
    | nil => exact .inr (.inr ⟨ht, rfl, by simpa [hostStep, hi] using h.symm⟩)
    | cons e rest => exact .inr (.inl ⟨e, rest, ht, rfl, by simpa [hostStep, hi] using h⟩)

/-- What running a word can be. -/
theorem runWord_cases (c : Word32) (s : State) :
    (∃ i, decode c = .command i ∧ runWord c s = exec i s) ∨
    (∃ why, decode c = .illegal why ∧ runWord c s = .next (raiseCmdError .illegal s)) := by
  unfold runWord
  cases h : decode c with
  | command i => exact .inl ⟨i, rfl, rfl⟩
  | illegal why => exact .inr ⟨why, rfl, rfl⟩

/-- A placed command runs at the very next step. -/
theorem step_placeCommand (c : Word32) (s : State) : step (placeCommand c s) = runWord c (placeCommand c s) :=
  step_engine (by simp [engineTurn]) rfl

/-- A 32-bit access of the window is served. -/
theorem served_window (off : Offset) (op : BusOp) :
    served (.access .bits32 (Config.gfBase + off.toNat) op) = true := by
  rw [served, windowOffset_base]
  rfl

/-- A served event is a 32-bit access of the window. -/
theorem eq_of_served {e : Event} (h : served e = true) :
    ∃ (off : Offset) (op : BusOp), e = .access .bits32 (Config.gfBase + off.toNat) op := by
  cases e with
  | resetLevel b => simp [served] at h
  | access width addr op =>
    cases width <;> simp only [served, Bool.false_eq_true] at h
    obtain ⟨off, ho⟩ := Option.isSome_iff_exists.mp h
    exact ⟨off, op, by rw [eq_of_windowOffset ho]⟩

end Sys2Proof.Machine
end

