-- ==== Sys2Proof/Tests/Slice0.lean ====
section
/-! SUPPORT. Tests: the smoke test of the check, words written out from 30_encoding R81 and 95 L2.10, one step of each command
with the value of 95 L2, the register window with the values of 95 L2.11, and a witness for the hypotheses of every
statement that has some. -/

namespace Sys2Proof.Tests

-- One theorem after the other: a waiting thread for each test costs the compile of the package 10 GiB.
set_option Elab.async false

open Sys2Proof.Machine Sys2Proof.Claims

/-! ### The check refuses an ill-formed command -/

theorem test_wf_refuses_shift_173 : ¬ (Instr.wxor 0 173).WellFormed := by decide

theorem test_wf_accepts_shift_172 : (Instr.wxor 1 172).WellFormed := by decide

/-! ### Words: legal and illegal, for every command (spec: the OP column of R84, the masks of R85, 95 L2) -/

theorem test_decode_zero : (fieldsOf 0x01500000).op = 0x01 ∧ (0x01500000 : Word32) &&& 0xFF0FFFFF = 0x01000000 ∧
    decode 0x01500000 = .command (.zero 5) ∧ encode (.zero 5) = 0x01500000 ∧
    (fieldsOf 0x01510000).op = 0x01 ∧ (0x01510000 : Word32) &&& 0xFF0FFFFF ≠ 0x01000000 ∧ decode 0x01510000 = .illegal .field := by decide

theorem test_decode_mov : (fieldsOf 0x02210000).op = 0x02 ∧ (0x02210000 : Word32) &&& 0xFF00FFFF = 0x02000000 ∧
    decode 0x02210000 = .command (.mov 2 1) ∧ encode (.mov 2 1) = 0x02210000 ∧
    (fieldsOf 0x02211000).op = 0x02 ∧ (0x02211000 : Word32) &&& 0xFF00FFFF ≠ 0x02000000 ∧ decode 0x02211000 = .illegal .field := by decide

theorem test_decode_add : (fieldsOf 0x10312000).op = 0x10 ∧ (0x10312000 : Word32) &&& 0xFF000FFF = 0x10000000 ∧
    decode 0x10312000 = .command (.add 3 1 2) ∧ encode (.add 3 1 2) = 0x10312000 ∧
    (fieldsOf 0x10312001).op = 0x10 ∧ (0x10312001 : Word32) &&& 0xFF000FFF ≠ 0x10000000 ∧ decode 0x10312001 = .illegal .field := by decide

theorem test_decode_mul : (fieldsOf 0x11312000).op = 0x11 ∧ (0x11312000 : Word32) &&& 0xFF000FFF = 0x11000000 ∧
    decode 0x11312000 = .command (.mul 3 1 2) ∧ encode (.mul 3 1 2) = 0x11312000 ∧
    (fieldsOf 0x11312100).op = 0x11 ∧ (0x11312100 : Word32) &&& 0xFF000FFF ≠ 0x11000000 ∧ decode 0x11312100 = .illegal .field := by decide

theorem test_decode_sqr : (fieldsOf 0x12210000).op = 0x12 ∧ (0x12210000 : Word32) &&& 0xFF00FFFF = 0x12000000 ∧
    decode 0x12210000 = .command (.sqr 2 1) ∧ encode (.sqr 2 1) = 0x12210000 ∧
    (fieldsOf 0x12211000).op = 0x12 ∧ (0x12211000 : Word32) &&& 0xFF00FFFF ≠ 0x12000000 ∧ decode 0x12211000 = .illegal .field := by decide

theorem test_decode_pow : (fieldsOf 0x13FAB000).op = 0x13 ∧ (0x13FAB000 : Word32) &&& 0xFF000FFF = 0x13000000 ∧
    decode 0x13FAB000 = .command (.pow 15 10 11) ∧ encode (.pow 15 10 11) = 0x13FAB000 ∧
    (fieldsOf 0x13FAB800).op = 0x13 ∧ (0x13FAB800 : Word32) &&& 0xFF000FFF ≠ 0x13000000 ∧ decode 0x13FAB800 = .illegal .field := by decide

theorem test_decode_inv : (fieldsOf 0x14210000).op = 0x14 ∧ (0x14210000 : Word32) &&& 0xFF00FFFF = 0x14000000 ∧
    decode 0x14210000 = .command (.inv 2 1) ∧ encode (.inv 2 1) = 0x14210000 ∧
    (fieldsOf 0x14210080).op = 0x14 ∧ (0x14210080 : Word32) &&& 0xFF00FFFF ≠ 0x14000000 ∧ decode 0x14210080 = .illegal .field := by decide

theorem test_decode_trace : (fieldsOf 0x15010000).op = 0x15 ∧ (0x15010000 : Word32) &&& 0xFFF0FFFF = 0x15000000 ∧
    decode 0x15010000 = .command (.trace 1) ∧ encode (.trace 1) = 0x15010000 ∧
    (fieldsOf 0x15110000).op = 0x15 ∧ (0x15110000 : Word32) &&& 0xFFF0FFFF ≠ 0x15000000 ∧ decode 0x15110000 = .illegal .field := by decide

theorem test_decode_eq : (fieldsOf 0x16034000).op = 0x16 ∧ (0x16034000 : Word32) &&& 0xFFF00FFF = 0x16000000 ∧
    decode 0x16034000 = .command (.eq 3 4) ∧ encode (.eq 3 4) = 0x16034000 ∧
    (fieldsOf 0x16134000).op = 0x16 ∧ (0x16134000 : Word32) &&& 0xFFF00FFF ≠ 0x16000000 ∧ decode 0x16134000 = .illegal .field := by decide

theorem test_decode_wclr : (fieldsOf 0x20000000).op = 0x20 ∧ (0x20000000 : Word32) &&& 0xFFFFFFFF = 0x20000000 ∧
    decode 0x20000000 = .command (.wclr) ∧ encode (.wclr) = 0x20000000 ∧
    (fieldsOf 0x20000001).op = 0x20 ∧ (0x20000001 : Word32) &&& 0xFFFFFFFF ≠ 0x20000000 ∧ decode 0x20000001 = .illegal .field := by decide

theorem test_decode_clmul : (fieldsOf 0x22012000).op = 0x22 ∧ (0x22012000 : Word32) &&& 0xFFF00FFF = 0x22000000 ∧
    decode 0x22012000 = .command (.clmul 1 2) ∧ encode (.clmul 1 2) = 0x22012000 ∧
    (fieldsOf 0x22812000).op = 0x22 ∧ (0x22812000 : Word32) &&& 0xFFF00FFF ≠ 0x22000000 ∧ decode 0x22812000 = .illegal .field := by decide

theorem test_decode_spread : (fieldsOf 0x23010000).op = 0x23 ∧ (0x23010000 : Word32) &&& 0xFFF0FFFF = 0x23000000 ∧
    decode 0x23010000 = .command (.spread 1) ∧ encode (.spread 1) = 0x23010000 ∧
    (fieldsOf 0x23011000).op = 0x23 ∧ (0x23011000 : Word32) &&& 0xFFF0FFFF ≠ 0x23000000 ∧ decode 0x23011000 = .illegal .field := by decide

theorem test_decode_red : (fieldsOf 0x24200000).op = 0x24 ∧ (0x24200000 : Word32) &&& 0xFF0FFFFF = 0x24000000 ∧
    decode 0x24200000 = .command (.red 2) ∧ encode (.red 2) = 0x24200000 ∧
    (fieldsOf 0x24280000).op = 0x24 ∧ (0x24280000 : Word32) &&& 0xFF0FFFFF ≠ 0x24000000 ∧ decode 0x24280000 = .illegal .field := by decide

theorem test_decode_parseb : (fieldsOf 0x30100000).op = 0x30 ∧ (0x30100000 : Word32) &&& 0xFF0FFFFF = 0x30000000 ∧
    decode 0x30100000 = .command (.parseb 1) ∧ encode (.parseb 1) = 0x30100000 ∧
    (fieldsOf 0x30110000).op = 0x30 ∧ (0x30110000 : Word32) &&& 0xFF0FFFFF ≠ 0x30000000 ∧ decode 0x30110000 = .illegal .field := by decide

theorem test_decode_parseh : (fieldsOf 0x31100000).op = 0x31 ∧ (0x31100000 : Word32) &&& 0xFF0FFFFF = 0x31000000 ∧
    decode 0x31100000 = .command (.parseh 1) ∧ encode (.parseh 1) = 0x31100000 ∧
    (fieldsOf 0x31100008).op = 0x31 ∧ (0x31100008 : Word32) &&& 0xFF0FFFFF ≠ 0x31000000 ∧ decode 0x31100008 = .illegal .field := by decide

theorem test_decode_fmtb : (fieldsOf 0x32010000).op = 0x32 ∧ (0x32010000 : Word32) &&& 0xFFF0FFFF = 0x32000000 ∧
    decode 0x32010000 = .command (.fmtb 1) ∧ encode (.fmtb 1) = 0x32010000 ∧
    (fieldsOf 0x32110000).op = 0x32 ∧ (0x32110000 : Word32) &&& 0xFFF0FFFF ≠ 0x32000000 ∧ decode 0x32110000 = .illegal .field := by decide

theorem test_decode_fmth : (fieldsOf 0x330F0000).op = 0x33 ∧ (0x330F0000 : Word32) &&& 0xFFF0FFFF = 0x33000000 ∧
    decode 0x330F0000 = .command (.fmth 15) ∧ encode (.fmth 15) = 0x330F0000 ∧
    (fieldsOf 0x331F0000).op = 0x33 ∧ (0x331F0000 : Word32) &&& 0xFFF0FFFF ≠ 0x33000000 ∧ decode 0x331F0000 = .illegal .field := by decide

theorem test_decode_wxor : decode 0x210100AC = .command (.wxor 1 172) ∧ encode (.wxor 1 172) = 0x210100AC ∧
    (0x210100AC : Word32) &&& 0xFFF0FF00 = 0x21000000 ∧ (fieldsOf 0x210100AC).imm.toNat = 172 ∧
    (fieldsOf 0x210100AD).op = 0x21 ∧ (fieldsOf 0x210100AD).imm.toNat = 173 ∧
    decode 0x210100AD = .illegal .shift ∧ decode 0x210100FF = .illegal .shift ∧
    (0x21110000 : Word32) &&& 0xFFF0FF00 ≠ 0x21000000 ∧ decode 0x21110000 = .illegal .field := by decide

theorem test_decode_unassigned : decode 0x00000000 = .illegal .opcode ∧ decode 0x17000000 = .illegal .opcode ∧
    decode 0x34000000 = .illegal .opcode ∧ decode 0xFF000000 = .illegal .opcode := by decide

theorem test_table_word : decodeTableWord 32 0x11312000 = some (.mul 3 1 2) ∧ decodeTableWord 32 0 = none := by decide

/-- 30_encoding R88 and R89. -/
theorem test_asm_and_pseudo : asm (.mul 3 1 2) = "mul f3, f1, f2" ∧ asm (.wxor 1 172) = "wxor f1, 172" ∧
    expand (.sub 3 1 2) = .add 3 1 2 ∧ encode (expand .nop) = 0x02000000 := by decide

/-! ### One step of each command (values of 95 L2) -/

/-- The outcome is a next state that passes the test. -/
def nextIs (o : Host.Outcome State Fault Refusal) (p : State → Bool) : Bool :=
  match o with
  | .next t => p t
  | .fault _ => false
  | .refused _ => false

/-- One step on a command word. -/
def stepOn (c : Nat) (s : State) (p : State → Bool) : Bool := nextIs (step (s.withFetchWord 32 c)) p

/-- The reset state with F[1] and F[2]. -/
def ab (a b : Element) : State := writeF 1 a (writeF 2 b State.reset)

/-- The reset state with a string in TXT, its length in LEN, and F[1] = 9. -/
def str (cs : List Byte) : State := writeF 1 9 (writeString cs State.reset)

theorem test_step_zero : stepOn 0x01500000 (writeF 5 0x407 State.reset)
    (fun t => readF t 5 == 0 && t.err == 0 && !t.busy) = true := by decide +kernel

theorem test_step_mov : stepOn 0x02210000 (ab 0x2 0)
    (fun t => readF t 2 == 0x2 && readF t 1 == 0x2) = true := by decide +kernel

theorem test_step_add : stepOn 0x10312000 (ab 0x6 0x3) (fun t => readF t 3 == 0x5) = true := by decide +kernel

theorem test_step_mul_s2 : stepOn 0x11312000
    (ab 0xae91db7fbd1ebac661f6488cc27f208c2b136493261 0xd5026bf220f27a2d765193e6c14502e37f19293a040)
    (fun t => readF t 3 == 0x1ad6f26d48849e96d7cb5852de86c4a425b698a35b3e && t.w == 0) = true := by decide +kernel

theorem test_step_sqr_s4 : stepOn 0x12210000 (ab 0x17182f40654a23682f00c3790b2e6714ce97f804bfb4 0)
    (fun t => readF t 2 == 0xe3136cf4b0f969440a35e3403463bca4d484f5c32a4) = true := by decide +kernel

/-- x^2: after the two iterations that cover the exponent's bits the result is x^2 (95 L2.5, first row). -/
theorem test_pow_loop : powLoop 2 2 2 = (4, 16) := by decide +kernel

/-- a + a^2 + a^4 for a = x, and t = a^4 (45_trace R160's comment on t). -/
theorem test_trace_loop : traceLoop 2 2 = (0x16, 0x10) := by decide +kernel

/-- result = a^(2^(k+1) − 1) = a^7 for k = 2 and a = x (46_inverse R170's comment). -/
theorem test_inv_loop : invLoop 2 2 = (0x80, 0x10) := by decide +kernel

/-- 95 S5: the product of the input and the expected inverse is ONE. -/
theorem test_inverse_vector : mulred 0xabcdefabcedfeacbdfeacabcdefabcdef
    0x1e6bcb5756f3b08aaf8a1f88e415a6fbbd28f17b506d = 1 := by decide +kernel

theorem test_step_inv_zero_is_domain : stepOn 0x14210000 (ab 0 0x77)
    (fun t => readF t 2 == 0x77 && t.err == 6 && t.sticky && !t.busy) = true := by decide +kernel

theorem test_step_eq : stepOn 0x16012000 (ab 0x407 0x407) (fun t => t.eqFlag) = true ∧
    stepOn 0x16012000 (ab 0x10000000000000000000000000000000000000000000 0) (fun t => !t.eqFlag) = true := by
  decide +kernel

theorem test_step_wclr : stepOn 0x20000000 (writeW 0x407 State.reset) (fun t => t.w == 0) = true := by decide +kernel

theorem test_step_wxor : stepOn 0x210100AC (ab 0x2 0) (fun t => t.w == BitVec.ofNat 345 (2 ^ 173)) = true ∧
    stepOn 0x21010005 (writeW 0x60 (ab 0x3 0)) (fun t => t.w == 0) = true := by decide +kernel

theorem test_step_clmul : stepOn 0x22012000 (ab 0x3 0x3) (fun t => t.w == 0x5) = true := by decide +kernel

theorem test_step_spread : stepOn 0x23010000 (ab 0x7 0) (fun t => t.w == 0x15) = true := by decide +kernel

theorem test_step_red : stepOn 0x24200000 (writeW (BitVec.ofNat 345 (2 ^ 344)) State.reset)
    (fun t => readF t 2 == 0x18000000000000000000000000000000000000040307 &&
      t.w == 0x18000000000000000000000000000000000000040307) = true := by decide +kernel

/-- "101" is 5, and "102" is BIN_CHAR with F[1] unchanged (95 L2.8). -/
theorem test_step_parseb : stepOn 0x30100000 (str [0x31, 0x30, 0x31]) (fun t => readF t 1 == 5) = true ∧
    stepOn 0x30100000 (str [0x31, 0x30, 0x32]) (fun t => readF t 1 == 9 && t.err == 1 && t.sticky) = true := by
  decide +kernel

theorem test_step_parseb_lengths :
    stepOn 0x30100000 { State.reset with len := 300 } (fun t => t.err == 5) = true ∧
    stepOn 0x30100000 { State.reset with len := 256 } (fun t => t.err == 2) = true := by decide +kernel

/-- "aBc" is 0xabc in mixed case, and "0x1" is HEX_CHAR (95 L2.8). -/
theorem test_step_parseh : stepOn 0x31100000 (str [0x61, 0x42, 0x63]) (fun t => readF t 1 == 0xabc) = true ∧
    stepOn 0x31100000 (str [0x30, 0x78, 0x31]) (fun t => readF t 1 == 9 && t.err == 3) = true := by decide +kernel

/-- "2" and 43 × "0" is HEX_LEN; a bad character after it is HEX_CHAR (95 L2.8). -/
theorem test_step_parseh_order :
    stepOn 0x31100000 (str (0x32 :: List.replicate 43 0x30)) (fun t => readF t 1 == 9 && t.err == 4) = true ∧
    stepOn 0x31100000 (str (0x32 :: List.replicate 43 0x30 ++ [0x67])) (fun t => t.err == 3) = true := by decide +kernel

theorem test_step_fmtb : stepOn 0x32010000 (ab 0x5 0) (fun t => t.len == 173 && readByte t.txt 169 == 0x30 &&
    readByte t.txt 170 == 0x31 && readByte t.txt 171 == 0x30 && readByte t.txt 172 == 0x31) = true := by decide +kernel

/-- 0x407 is "407"; the byte after the string is unchanged (95 L2.8). -/
theorem test_step_fmth : stepOn 0x33010000 (writeF 1 0x407 (writeString [0x31, 0x31, 0x31, 0x31] State.reset))
    (fun t => t.len == 3 && readByte t.txt 0 == 0x34 && readByte t.txt 1 == 0x30 && readByte t.txt 2 == 0x37 &&
      readByte t.txt 3 == 0x31) = true ∧
    stepOn 0x33010000 State.reset (fun t => t.len == 1 && readByte t.txt 0 == 0x30) = true := by decide +kernel

theorem test_step_illegal : stepOn 0x210100AD (ab 0x2 0)
    (fun t => t.err == 7 && t.sticky && !t.busy && t.w == 0 && t.lastcmd == 0x210100AD) = true := by decide +kernel

theorem test_step_reset_is_idle : nextIs (step State.reset) (fun t => t == State.reset) = true := by decide +kernel

/-! ### The register window (values of 95 L2.11 and 20_memory R58) -/

theorem test_id_word : Config.idWord = 0x01020AAD := by decide

/-- Word 5 keeps bits 12:0, word 6 is reserved. -/
theorem test_element_words :
    readF (hostWrite 0x414 0xFFFFFFFF State.reset) 0 = BitVec.ofNat 173 (0x1fff <<< 160) ∧
    readF (hostWrite 0x418 0xFFFFFFFF State.reset) 0 = 0 ∧ readF (hostWrite 0x420 0x2 State.reset) 1 = 2 := by
  decide +kernel

theorem test_accumulator_word :
    (hostWrite 0x628 0xFFFFFFFF State.reset).w = BitVec.ofNat 345 (0x1ffffff <<< 320) := by decide +kernel

/-- "1ad6" is 0x36646131 at 0x100. -/
theorem test_text_word : (hostRead 0x100 (str [0x31, 0x61, 0x64, 0x36])).resp = some (.data 0x36646131) ∧
    readByte (hostWrite 0x104 0x36646131 State.reset).txt 5 = 0x61 := by decide +kernel

theorem test_tlen : (hostWrite 0x008 0xFFFFFFFF State.reset).len = 511 ∧
    (hostRead 0x008 (hostWrite 0x008 0xFFFFFFFF State.reset)).resp = some (.data 0x1FF) := by decide +kernel

/-- STICKY and OVERRUN are cleared, ERR = 6 stays: STATUS = 0x60; 0xF7 changes nothing. -/
theorem test_status :
    statusWord (hostWrite 0x004 0x300 { State.reset with err := 6, sticky := true, overrun := true }) = 0x60 ∧
    statusWord (hostWrite 0x004 0xF7 { State.reset with err := 6, trFlag := true }) = 0x62 ∧
    statusWord { State.reset with err := 6, sticky := true } = 0x160 := by decide +kernel

theorem test_bus_error : (hostRead 0x002 State.reset).resp = some .busError ∧
    hostWrite 0x101 1 State.reset = respond .busError State.reset := by decide +kernel

theorem test_reserved : (hostRead 0x010 State.reset).resp = some (.data 0) ∧
    (hostRead 0xFFC State.reset).resp = some (.data 0) := by decide +kernel

/-- A write before the engine's step is dropped: OVERRUN, F[1] and LASTCMD as before. -/
theorem test_busy_write : readF (hostWrite 0x420 7 (placeCommand 0x11312000 (ab 2 3))) 1 = 2 ∧
    (hostWrite 0x420 7 (placeCommand 0x11312000 (ab 2 3))).overrun = true ∧
    (hostWrite 0x000 0x01100000 (placeCommand 0x11312000 State.reset)).lastcmd = 0x11312000 := by decide +kernel

theorem test_host_text : text [0x30, 0x78, 0x31] = [hw 0x100 0x00317830, hw 0x008 3] := by rfl

/-! ### Witnesses: the hypotheses of the statements can be met -/

/-- A pending `add f3, f1, f2` whose turn it is. -/
def pendingAdd : State := placeCommand 0x10312000 (ab 0x6 0x3)

/-- A pending command with three host events still before it. -/
def busyWith (es : List Event) : State := { pendingAdd with inbox := es, wait := 3 }

/-- An idle block with events to arrive. -/
def idleWith (es : List Event) : State := { ab 0x6 0x3 with inbox := es }

theorem witness_engine_turn : EngineTurn pendingAdd 0x10312000 ∧ decode 0x10312000 = .command (.add 3 1 2) :=
  ⟨⟨rfl, rfl, .inl rfl⟩, by decide⟩

/-- The engine moves with host events still counted, when none is left. -/
theorem witness_engine_turn_empty : EngineTurn (busyWith []) 0x10312000 := ⟨rfl, rfl, .inr rfl⟩

theorem witness_host_turn_idle (e : Event) : HostTurn (idleWith [e]) e [] ∧ (idleWith [e]).inReset = false ∧
    (idleWith [e]).pend = none := ⟨⟨rfl, .inl rfl⟩, rfl, rfl⟩

/-- A CMD write to an idle block, with the host's polling reads after it. -/
theorem witness_host_turn_polling (c : Word32) :
    HostTurn (idleWith [hw 0x000 c, hr 0x004, hr 0x004]) (hw 0x000 c) [hr 0x004, hr 0x004] ∧
    (idleWith [hw 0x000 c, hr 0x004, hr 0x004]).inReset = false ∧
    (idleWith [hw 0x000 c, hr 0x004, hr 0x004]).pend = none := ⟨⟨rfl, .inl rfl⟩, rfl, rfl⟩

theorem witness_host_turn_busy (e : Event) : HostTurn (busyWith [e]) e [] ∧ (busyWith [e]).inReset = false ∧
    (busyWith [e]).busy = true := ⟨⟨rfl, .inr (.inr (Nat.succ_pos 2))⟩, rfl, rfl⟩

theorem witness_host_turn_reset (e : Event) :
    HostTurn { busyWith [e] with inReset := true, wait := 0 } e [] := ⟨rfl, .inr (.inl rfl)⟩

/-- One word for each of the three cases of an illegal word. -/
theorem witness_illegal_words : (fieldsOf 0x34000000).op ∉ assignedOps ∧
    (∃ row ∈ opcodeRows, (fieldsOf 0x01510000).op = (fieldsOf row.pattern).op ∧
      (0x01510000 : Word32) &&& row.mask ≠ row.pattern) ∧
    ((fieldsOf 0x210100AD).op = 0x21 ∧ 172 < (fieldsOf 0x210100AD).imm.toNat) := by decide

/-- A word pending that is illegal. -/
theorem witness_illegal_pending : EngineTurn (placeCommand 0x34000000 State.reset) 0x34000000 ∧ IllegalWord 0x34000000 :=
  ⟨⟨rfl, rfl, .inl rfl⟩, .inl (by decide)⟩

/-- The opcodes at both ends of each unassigned range. -/
theorem witness_unassigned_ranges : (0x00 : BitVec 8) ∉ assignedOps ∧ (0x03 : BitVec 8) ∉ assignedOps ∧
    (0x0F : BitVec 8) ∉ assignedOps ∧ (0x17 : BitVec 8) ∉ assignedOps ∧ (0x1F : BitVec 8) ∉ assignedOps ∧
    (0x25 : BitVec 8) ∉ assignedOps ∧ (0x2F : BitVec 8) ∉ assignedOps ∧ (0x34 : BitVec 8) ∉ assignedOps ∧
    (0xFF : BitVec 8) ∉ assignedOps := by decide

theorem witness_row : (⟨"WXOR", 0x21000000, 0xFFF0FF00⟩ : Row) ∈ opcodeRows ∧
    rowMatches 0x210100AC ⟨"WXOR", 0x21000000, 0xFFF0FF00⟩ = true := by decide

theorem witness_shift_bounds : (172 : BitVec 8).toNat ≤ 172 ∧ 172 < (173 : BitVec 8).toNat := by decide

theorem sqr_zero : sqr 0 = 0 := by decide +kernel

theorem traceLoop_of_zero (n : Nat) : traceLoop 0 n = (0, 0) := by
  induction n with
  | zero => rfl
  | succ n ih =>
    rw [traceLoop_succ, ih, sqr_zero]
    rfl

/-- The zero element passes the trace check. -/
theorem witness_trace_check (k : Nat) : (traceAcc (readF State.reset 1)).getLsbD k = false := by
  have h : readF State.reset 1 = 0 := by decide
  rw [h, traceAcc, traceLoop_of_zero]
  simp

theorem witness_inverse_operands : readF (ab 0x2 0) 1 ≠ 0 ∧ readF State.reset 1 = 0 := by decide +kernel

/-- A bit vector as a polynomial, from the set of its bits that are 1. -/
theorem toPoly_eq_sum {n : Nat} (v : BitVec n) (S : Finset Nat)
    (h : (Finset.range n).filter (fun k => v.getLsbD k = true) = S) :
    toPoly v = ∑ k ∈ S, (Polynomial.X ^ k : Polynomial (ZMod 2)) := by
  rw [toPoly, ← h, Finset.sum_filter]

theorem toPoly_x173 : toPoly (BitVec.ofNat 345 (2 ^ 173)) = Polynomial.X ^ 173 := by
  rw [toPoly_eq_sum _ {173} (by decide +kernel), Finset.sum_singleton]

theorem sum_four (g : Nat → Polynomial (ZMod 2)) :
    ∑ k ∈ ({10, 2, 1, 0} : Finset Nat), g k = g 10 + g 2 + g 1 + g 0 := by
  simp [add_assoc]

theorem toPoly_0x407 : toPoly (0x407 : Element) = Polynomial.X ^ 10 + Polynomial.X ^ 2 + Polynomial.X + 1 := by
  rw [toPoly_eq_sum _ {10, 2, 1, 0} (by decide +kernel), sum_four, pow_one, pow_zero]

/-- A sum is a multiple of the difference of its first term and the rest, over GF(2). -/
theorem sum_dvd_sub (a b c d e : Polynomial (ZMod 2)) : a + b + c + d + e ∣ a - (b + c + d + e) := by
  rw [CharTwo.sub_eq_add]
  simp only [add_assoc, dvd_refl]

/-- x^173 is congruent to x^10 + x^2 + x + 1 modulo f (00_scope R2): the premise of ReduceIsRemainder. -/
theorem witness_congruent : fPoly ∣ toPoly (BitVec.ofNat 345 (2 ^ 173)) - toPoly (0x407 : Element) := by
  rw [toPoly_x173, toPoly_0x407]
  unfold fPoly
  exact sum_dvd_sub _ _ _ _ _

/-- 0x2 has an inverse (95 L2.7). -/
theorem witness_unit : mulred 0x2 0x10000000000000000000000000000000000000000203 = Config.one := by decide +kernel

/-- Lengths at the ends of PARSEB's ranges. -/
theorem witness_text_lengths : 256 < ({ State.reset with len := 257 } : State).len.toNat ∧
    173 < ({ State.reset with len := 174 } : State).len.toNat ∧
    ({ State.reset with len := 256 } : State).len.toNat ≤ 256 ∧
    ({ State.reset with len := 173 } : State).len.toNat ≤ 173 := by decide

theorem witness_bin_char : (str [0x31, 0x32]).len.toNat ≤ 173 ∧
    ∃ k, k < (str [0x31, 0x32]).len.toNat ∧ readByte (str [0x31, 0x32]).txt k ≠ 0x30 ∧
      readByte (str [0x31, 0x32]).txt k ≠ 0x31 := ⟨by decide, 1, by decide⟩

theorem witness_bin_string : ∀ k, k < (str [0x31, 0x30]).len.toNat →
    readByte (str [0x31, 0x30]).txt k = 0x30 ∨ readByte (str [0x31, 0x30]).txt k = 0x31 := by decide +kernel

/-- 'g' is no hexadecimal digit. -/
theorem witness_hex_char : (str [0x67]).len.toNat ≤ 256 ∧ ∃ k, k < (str [0x67]).len.toNat ∧
    ∀ d, ¬ HexChar (readByte (str [0x67]).txt k) d := by
  refine ⟨by decide, 0, by decide, fun d h => ?_⟩
  have e : (readByte (str [0x67]).txt 0).toNat = 0x67 := by decide
  unfold HexChar at h
  omega

/-- "2" and 43 × "0" has value 2^173, and "1f" has value 31: both ends of PARSEH's range check. -/
theorem witness_hex_values :
    (∑ k ∈ Finset.range 44, (if k = 0 then 2 else 0) * 16 ^ (44 - 1 - k) = 2 ^ 173) ∧
    (∀ k, k < (str (0x32 :: List.replicate 43 0x30)).len.toNat →
      HexChar (readByte (str (0x32 :: List.replicate 43 0x30)).txt k) (if k = 0 then 2 else 0)) ∧
    (∀ k, k < (str [0x31, 0x66]).len.toNat → HexChar (readByte (str [0x31, 0x66]).txt k) (if k = 0 then 1 else 15)) ∧
    (∑ k ∈ Finset.range 2, (if k = 0 then 1 else 15) * 16 ^ (2 - 1 - k) < 2 ^ 173) := by
  unfold HexChar
  decide +kernel

/-- A well-formed command that completes with an error of its list. -/
theorem witness_error : nextIs (exec (.inv 2 1) State.reset) (fun t => t.err == 6) = true ∧
    (Instr.inv 2 1).WellFormed := by decide +kernel

/-- Two different states that agree on ADD's operands. -/
theorem witness_same_operands : SameOperands (.add 3 1 2) (ab 6 3) (writeW 5 (ab 6 3)) where
  f := fun r _ => rfl
  w := fun h => by simp [ReadsW] at h
  text := fun h => by simp [ReadsText] at h

theorem witness_served : served (hw 0x420 7) = true ∧ served (hr 0x004) = true :=
  ⟨served_window _ _, served_window _ _⟩

/-- A pending command whose counted events are all served. -/
theorem witness_served_inbox : ∀ e ∈ (busyWith [hw 0x420 7, hr 0x004]).inbox.take (busyWith []).wait,
    served e = true := by
  intro e he
  have : e = hw 0x420 7 ∨ e = hr 0x004 := by simpa [busyWith] using he
  rcases this with rfl | rfl <;> exact served_window _ _

/-- Offsets at the ends of the storing ranges. -/
theorem witness_storing : StoringOffset 0x1FC ∧ StoringOffset 0x5F4 ∧ StoringOffset 0x628 ∧ StoringOffset 0x000 :=
  ⟨.inr (.inr (.inl ⟨63, by decide, by decide⟩)),
    .inr (.inr (.inr (.inl ⟨15, 5, by decide, by decide, by decide⟩))),
    .inr (.inr (.inr (.inr ⟨10, by decide, by decide⟩))), .inl (by decide)⟩

/-- Offsets at the ends of the reserved ranges. -/
theorem witness_reserved : ReservedOffset 0x010 ∧ ReservedOffset 0x0FC ∧ ReservedOffset 0x200 ∧ ReservedOffset 0xFFC ∧
    ReservedOffset 0x41C ∧ ReservedOffset 0x62C :=
  ⟨⟨by decide, .inl (by decide)⟩, ⟨by decide, .inl (by decide)⟩, ⟨by decide, .inr (.inl (by decide))⟩,
    ⟨by decide, .inr (.inr (.inl (by decide)))⟩,
    ⟨by decide, .inr (.inr (.inr (.inl ⟨0, 7, by decide, by decide, by decide, by decide⟩)))⟩,
    ⟨by decide, .inr (.inr (.inr (.inr ⟨11, by decide, by decide, by decide⟩)))⟩⟩

theorem witness_misaligned : (0x002 : Offset).toNat % 4 ≠ 0 := by decide

/-- An address just past the window. -/
theorem witness_outside : HostTurn (idleWith [.access .bits32 (Config.gfBase + 0x1000) .read])
    (.access .bits32 (Config.gfBase + 0x1000) .read) [] ∧ Config.gfBase + 0x1000 ≤ Config.gfBase + 0x1000 :=
  ⟨⟨rfl, .inl rfl⟩, Nat.le_refl _⟩

/-- STICKY set by a step: an illegal word completes with ERR = 7. -/
theorem witness_sticky : step (placeCommand 0x34000000 State.reset) =
    .next (raiseCmdError .illegal (placeCommand 0x34000000 State.reset)) := by
  rw [step_placeCommand]
  rfl

/-- A state other than reset that meets the invariant, with a command pending. -/
theorem witness_invariant : Inv (busyWith []) where
  txt := wf_nil
  err := by decide
  pend := fun c h => by simpa [busyWith, pendingAdd] using h
  reset := fun h => by simp [busyWith, pendingAdd] at h

/-- The text buffer stays canonical where a byte is set back to the reset content. -/
theorem test_canonical : writeByte (writeByte [] 3 0x31) 3 0x00 = [] ∧
    writeBytes [] 2 [0x31, 0x00, 0x32] = [(2, 0x31), (4, 0x32)] := by decide +kernel

end Sys2Proof.Tests
end

section
/-! PROOFS. Bit vectors as polynomials over GF(2), and the product's two loop forms (00_scope R14, R16). -/

namespace Sys2Proof.Proofs.Product

open Polynomial
open Sys2Proof.Machine Sys2Proof.Claims

/-! ### A bit vector read as a polynomial -/

theorem coeff_toPoly {n : Nat} (v : BitVec n) (k : Nat) :
    (toPoly v).coeff k = if v.getLsbD k then 1 else 0 := by
  have hterm : ∀ j, (if v.getLsbD j then (X : (ZMod 2)[X]) ^ j else 0).coeff k =
      if k = j then (if v.getLsbD k then 1 else 0) else 0 := by
    intro j
    by_cases hj : k = j
    · subst hj
      split <;> simp
    · split <;> simp [coeff_X_pow, hj]
  rw [toPoly, finsetSum_coeff, Finset.sum_congr rfl fun j _ => hterm j, Finset.sum_ite_eq]
  by_cases hk : k < n
  · simp [hk]
  · simp [BitVec.getLsbD_of_ge v k (by omega)]

theorem toPoly_injective {n : Nat} : Function.Injective (toPoly : BitVec n → (ZMod 2)[X]) := by
  intro v w h
  apply BitVec.eq_of_getLsbD_eq
  intro k _
  have hk := congrArg (coeff · k) h
  simp only [coeff_toPoly] at hk
  cases hv : v.getLsbD k <;> cases hw : w.getLsbD k <;> simp_all

@[simp] theorem toPoly_zero (n : Nat) : toPoly (0#n) = 0 := by
  simp [toPoly]

@[simp] theorem toPoly_width_zero (v : BitVec 0) : toPoly v = 0 := rfl

/-- XOR is addition over GF(2). -/
@[simp] theorem toPoly_xor {n : Nat} (v w : BitVec n) : toPoly (v ^^^ w) = toPoly v + toPoly w := by
  ext k
  rw [coeff_add, coeff_toPoly, coeff_toPoly, coeff_toPoly, BitVec.getLsbD_xor]
  cases v.getLsbD k <;> cases w.getLsbD k <;> decide

theorem toPoly_setWidth_succ {m : Nat} (v : BitVec m) (n : Nat) :
    toPoly (v.setWidth (n + 1)) = toPoly (v.setWidth n) + if v.getLsbD n then X ^ n else 0 := by
  have hlow : ∀ k ∈ Finset.range n,
      (if (v.setWidth (n + 1)).getLsbD k then (X : (ZMod 2)[X]) ^ k else 0) =
        if (v.setWidth n).getLsbD k then X ^ k else 0 := by
    intro k hk
    have hk := Finset.mem_range.mp hk
    simp [hk, Nat.lt_succ_of_lt hk]
  rw [toPoly, toPoly, Finset.sum_range_succ, Finset.sum_congr rfl hlow]
  simp

/-- A shift that loses no bit multiplies by a power of x. -/
theorem toPoly_setWidth_shiftLeft {m n : Nat} (v : BitVec m) (i : Nat) (h : m + i ≤ n) :
    toPoly (v.setWidth n <<< i) = toPoly v * X ^ i := by
  ext k
  rw [coeff_mul_X_pow', coeff_toPoly, coeff_toPoly, BitVec.getLsbD_shiftLeft, BitVec.getLsbD_setWidth]
  by_cases hik : i ≤ k
  · by_cases hkn : k < n
    · have hki : k - i < n := by omega
      simp [hik, hkn, hki, Nat.not_lt.mpr hik]
    · simp [hkn, BitVec.getLsbD_of_ge v (k - i) (by omega)]
  · simp [hik, Nat.lt_of_not_le hik]

theorem toPoly_one_shiftLeft {n : Nat} (i : Nat) (h : i < n) : toPoly ((1 : BitVec n) <<< i) = X ^ i := by
  have hone : (1 : BitVec n) = (1#1).setWidth n := BitVec.eq_of_toNat_eq (by simp)
  have hpoly : toPoly (1#1) = 1 := by simp [toPoly]
  rw [hone, toPoly_setWidth_shiftLeft _ _ (by omega), hpoly, one_mul]

/-! ### The product, row by row -/

/-- After n rows the accumulator is a times the low n bits of b. -/
theorem toPoly_clmulRows (a b : Element) (n : Nat) (hn : n ≤ 173) :
    toPoly (clmulRows a b n) = toPoly a * toPoly (b.setWidth n) := by
  induction n with
  | zero => simp
  | succ n ih =>
    have hrow := toPoly_setWidth_shiftLeft (n := 345) a n (by omega)
    rw [clmulRows_succ, toPoly_xor, ih (by omega), toPoly_setWidth_succ, mul_add]
    by_cases hb : b.getLsbD n
    · simp only [hb, if_true, hrow]
    · simp [hb]

theorem toPoly_clmul (a b : Element) : toPoly (clmul a b) = toPoly a * toPoly b := by
  rw [clmul, toPoly_clmulRows a b 173 le_rfl, BitVec.setWidth_eq]

/-- Settles O24, by induction on the rows (`toPoly_clmulRows`). -/
theorem clmulIsPolynomialProduct : Obligations.ClmulIsPolynomialProduct := toPoly_clmul

/-! ### The double loop of toggled bits -/

theorem toggleInner_succ (a : Element) (i : Nat) (acc : Product) (n : Nat) :
    toggleInner a i acc (n + 1) =
      toggleInner a i acc n ^^^ (if a.getLsbD n then (1 : Product) <<< (i + n) else 0) := by
  by_cases h : a.getLsbD n <;> simp [toggleInner, h]

/-- After n inner steps the low n bits of a, moved up by i, are added. -/
theorem toPoly_toggleInner (a : Element) (i : Nat) (acc : Product) (n : Nat) (h : i + n ≤ 345) :
    toPoly (toggleInner a i acc n) = toPoly acc + toPoly (a.setWidth n) * X ^ i := by
  induction n with
  | zero => simp [toggleInner]
  | succ n ih =>
    have hbit := toPoly_one_shiftLeft (n := 345) (i + n) (by omega)
    rw [toggleInner_succ, toPoly_xor, ih (by omega), toPoly_setWidth_succ, add_mul, ← add_assoc]
    by_cases ha : a.getLsbD n
    · simp only [ha, if_true, hbit, pow_add, mul_comm]
    · simp [ha]

/-- One whole inner loop toggles one row of the product. -/
theorem toggleInner_eq_row (a : Element) (i : Nat) (acc : Product) (hi : i < 173) :
    toggleInner a i acc 173 = acc ^^^ (a.setWidth 345 <<< i) := by
  apply toPoly_injective
  rw [toPoly_toggleInner a i acc 173 (by omega), BitVec.setWidth_eq, toPoly_xor,
    toPoly_setWidth_shiftLeft a i (by omega)]

theorem toggleOuter_eq_clmulRows (a b : Element) (n : Nat) (hn : n ≤ 173) :
    toggleOuter a b n = clmulRows a b n := by
  induction n with
  | zero => rfl
  | succ n ih => rw [toggleOuter, clmulRows, toggleInner_eq_row _ _ _ hn, ih (by omega)]

/-- Settles O26: one whole inner loop is one row, by induction on the rows. -/
theorem clmulEqualsDoubleLoop : Obligations.ClmulEqualsDoubleLoop :=
  fun a b => (toggleOuter_eq_clmulRows a b 173 le_rfl).symm

end Sys2Proof.Proofs.Product
end

section
/-! PROOFS. Whose turn it is, and one step of the machine said once, in the words of the statements: an engine step, a
reset, a read, a write, or no event (70_reset_and_hazards R250, R251). -/

namespace Sys2Proof.Proofs.Turns

open Sys2Proof.Machine Sys2Proof.Claims

/-! ### Turns -/

theorem engineTurn_iff {s : State} {c : Word32} : EngineTurn s c ↔ engineTurn s = true ∧ s.pend = some c := by
  constructor
  · rintro ⟨hp, hr, hd⟩
    exact ⟨by simpa [engineTurn, State.busy, hp, hr] using hd, hp⟩
  · rintro ⟨ht, hp⟩
    simp only [engineTurn, Bool.and_eq_true, Bool.not_eq_true', Bool.or_eq_true, beq_iff_eq,
      List.isEmpty_iff] at ht
    obtain ⟨⟨-, hr⟩, hd⟩ := ht
    exact ⟨hp, hr, hd⟩

theorem hostTurn_iff {s : State} {e : Event} {rest : List Event} :
    HostTurn s e rest ↔ engineTurn s = false ∧ s.inbox = e :: rest := by
  have hturn : s.inbox = e :: rest →
      (engineTurn s = false ↔ s.pend = none ∨ s.inReset = true ∨ 0 < s.wait) := by
    intro hi
    cases hp : s.pend <;> cases hr : s.inReset <;> simp [engineTurn, State.busy, hp, hr, hi, Nat.pos_iff_ne_zero]
  exact ⟨fun h => ⟨(hturn h.inbox).mpr h.free, h.inbox⟩, fun h => ⟨h.2, (hturn h.2).mp h.1⟩⟩

/-- The state an event finds: it has left the inbox, and one event less is to come before the engine's step. -/
def afterArrival (rest : List Event) (s : State) : State := { s with inbox := rest, wait := s.wait - 1 }

@[simp] theorem afterArrival_busy (rest : List Event) (s : State) : (afterArrival rest s).busy = s.busy := rfl

@[simp] theorem afterArrival_sticky (rest : List Event) (s : State) : (afterArrival rest s).sticky = s.sticky := rfl

@[simp] theorem afterArrival_overrun (rest : List Event) (s : State) : (afterArrival rest s).overrun = s.overrun := rfl

/-- An event that moves only the port's answer and the draw counter leaves the block. -/
theorem sameBlock_answered (a : Option Response) (d : Nat) (rest : List Event) (s : State) :
    SameBlock s { afterArrival rest s with resp := a, draws := d } :=
  ⟨⟨fun _ => rfl, rfl, fun _ => rfl, rfl⟩, ⟨rfl, rfl⟩, rfl, rfl, rfl, rfl, rfl, rfl⟩

/-! ### The step on a given turn -/

theorem step_engineTurn {s : State} {c : Word32} (h : EngineTurn s c) : step s = runWord c s := by
  obtain ⟨ht, hp⟩ := engineTurn_iff.mp h
  exact step_engine ht hp

theorem step_hostTurn {s : State} {e : Event} {rest : List Event} (h : HostTurn s e rest) :
    step s = performEvent e (afterArrival rest s) := by
  obtain ⟨ht, hi⟩ := hostTurn_iff.mp h
  exact step_event ht hi

theorem step_reset {s : State} {b : Bool} {rest : List Event} (h : HostTurn s (.resetLevel b) rest) :
    step s = .next (resetBlock b (afterArrival rest s)) :=
  step_hostTurn h

theorem step_read {s : State} {off : Offset} {rest : List Event} (h : HostTurn s (hr off) rest)
    (hreset : s.inReset = false) : step s = .next (hostRead off (afterArrival rest s)) := by
  rw [step_hostTurn h]
  exact performEvent_access off .read hreset

theorem step_write {s : State} {off : Offset} {v : Word32} {rest : List Event} (h : HostTurn s (hw off v) rest)
    (hreset : s.inReset = false) : step s = .next (hostWrite off v (afterArrival rest s)) := by
  rw [step_hostTurn h]
  exact performEvent_access off (.write v) hreset

/-- A write that does not stop the machine arrives outside reset and is performed. -/
theorem eq_hostWrite_of_step {s t : State} {off : Offset} {v : Word32} {rest : List Event}
    (h : HostTurn s (hw off v) rest) (hs : step s = .next t) : t = hostWrite off v (afterArrival rest s) := by
  obtain ⟨b, he, -⟩ | ⟨_, _, _, -, -, hreset, -⟩ := performEvent_next ((step_hostTurn h).symm.trans hs)
  · cases he
  · exact (Host.Outcome.next.inj ((step_write h hreset).symm.trans hs)).symm

/-! ### Every step -/

/-- What a step that answers a next state can be. -/
inductive StepCase (s : State) : State → Prop where
  | engine (c : Word32) {t : State} (turn : EngineTurn s c) (run : runWord c s = .next t) : StepCase s t
  | reset (b : Bool) (rest : List Event) (turn : HostTurn s (.resetLevel b) rest) :
      StepCase s (resetBlock b (afterArrival rest s))
  | read (off : Offset) (rest : List Event) (turn : HostTurn s (hr off) rest) (noReset : s.inReset = false) :
      StepCase s (hostRead off (afterArrival rest s))
  | write (off : Offset) (v : Word32) (rest : List Event) (turn : HostTurn s (hw off v) rest)
      (noReset : s.inReset = false) : StepCase s (hostWrite off v (afterArrival rest s))
  | idle : StepCase s s

theorem stepCase_of_step {s t : State} (h : step s = .next t) : StepCase s t := by
  obtain ⟨c, ht, hp, hrun⟩ | ⟨e, rest, ht, hi, he⟩ | ⟨-, -, rfl⟩ := step_cases h
  · exact .engine c (engineTurn_iff.mpr ⟨ht, hp⟩) hrun
  · have turn : HostTurn s e rest := hostTurn_iff.mpr ⟨ht, hi⟩
    obtain ⟨b, rfl, rfl⟩ | ⟨addr, off, op, rfl, hoff, hreset, rfl⟩ := performEvent_next he
    · exact .reset b rest turn
    · rw [eq_of_windowOffset hoff] at turn
      cases op with
      | read => exact .read off rest turn hreset
      | write v => exact .write off v rest turn hreset
  · exact .idle

end Sys2Proof.Proofs.Turns
end

section
/-! PROOFS. How each command ends, with the place it writes (30_encoding R84, 60_exceptions R212, R213): one lemma about
all commands, and what follows from it for every piece of state (10_state R20, R23, R24, R37). -/

namespace Sys2Proof.Proofs.Endings

open Sys2Proof.Machine Sys2Proof.Claims

/-- The ways command `i` ends: with an error, or completed after a write to a place of its own. -/
inductive CommandEnding (i : Instr) (s : State) : State → Prop where
  | raised (e : CmdError) : CommandEnding i s (raiseCmdError e s)
  | element (r : RegIx) (v : Element) (hd : destination i = some r) : CommandEnding i s (complete (writeF r v s))
  | accumulator (p : Product) (hw : WritesW i) : CommandEnding i s (complete (writeW p s))
  | both (r : RegIx) (v : Element) (p : Product) (hd : destination i = some r) (hw : WritesW i) :
      CommandEnding i s (complete (writeW p (writeF r v s)))
  | string (str : List Byte) (hlen : str.length ≤ 173) (ht : WritesText i) :
      CommandEnding i s (complete (writeString str s))
  | tr (rs1 : RegIx) (hi : i = .trace rs1) :
      CommandEnding i s (complete (setTr ((traceAcc (readF s rs1)).getLsbD 0) s))
  | eq (rs1 rs2 : RegIx) (hi : i = .eq rs1 rs2) :
      CommandEnding i s (complete (setEq (readF s rs1 == readF s rs2) s))

theorem exec_commandEnding (i : Instr) (s : State) : ∃ t, exec i s = .next t ∧ CommandEnding i s t := by
  cases i with
  | zero rd => exact ⟨_, rfl, .element _ _ rfl⟩
  | mov rd rs1 => exact ⟨_, rfl, .element _ _ rfl⟩
  | add rd rs1 rs2 => exact ⟨_, rfl, .element _ _ rfl⟩
  | mul rd rs1 rs2 => exact ⟨_, rfl, .element _ _ rfl⟩
  | sqr rd rs1 => exact ⟨_, rfl, .element _ _ rfl⟩
  | pow rd rs1 rs2 => exact ⟨_, rfl, .element _ _ rfl⟩
  | inv rd rs1 =>
    refine ⟨_, rfl, ?_⟩
    split
    · exact .raised _
    · exact .element _ _ rfl
  | trace rs1 =>
    refine ⟨_, rfl, ?_⟩
    split
    · exact .tr _ rfl
    · exact .raised _
  | eq rs1 rs2 => exact ⟨_, rfl, .eq _ _ rfl⟩
  | wclr => exact ⟨_, rfl, .accumulator _ (by simp [WritesW])⟩
  | wxor rs1 sh =>
    refine ⟨_, rfl, ?_⟩
    split
    · exact .accumulator _ (by simp [WritesW])
    · exact .raised _
  | clmul rs1 rs2 => exact ⟨_, rfl, .accumulator _ (by simp [WritesW])⟩
  | spread rs1 => exact ⟨_, rfl, .accumulator _ (by simp [WritesW])⟩
  | red rd => exact ⟨_, rfl, .both _ _ _ rfl (by simp [WritesW])⟩
  | parseb rd =>
    refine ⟨_, rfl, ?_⟩
    split
    · exact .raised _
    · split
      · exact .raised _
      · split
        · exact .element _ _ rfl
        · exact .raised _
  | parseh rd =>
    refine ⟨_, rfl, ?_⟩
    split
    · exact .raised _
    · split
      · split
        · exact .raised _
        · exact .element _ _ rfl
      · exact .raised _
  | fmtb rs1 => exact ⟨_, rfl, .string _ (by simp) (by simp [WritesText])⟩
  | fmth rs1 =>
    exact ⟨_, rfl, .string _ ((length_hexString_le _).trans (by decide)) (by simp [WritesText])⟩

theorem commandEnding_of_exec {i : Instr} {s t : State} (h : exec i s = .next t) : CommandEnding i s t := by
  obtain ⟨u, hu, hend⟩ := exec_commandEnding i s
  obtain rfl := Host.Outcome.next.inj (hu.symm.trans h)
  exact hend

/-! ### What every ending does to STATUS, PEND and the rest -/

/-- The codes are 1 to 8 (60_exceptions R211). -/
theorem errorCode_range (e : CmdError) : errorCode e ≠ 0 ∧ (errorCode e).toNat ≤ 8 := by
  cases e <;> decide

section
variable {s t : State} (h : Ending s t)
include h

theorem ending_sticky_iff : t.sticky = true ↔ s.sticky = true ∨ t.err ≠ 0 := by
  cases h with
  | raised e => exact ⟨fun _ => .inr (errorCode_range e).1, fun _ => rfl⟩
  | _ => simp

theorem ending_err_le : t.err.toNat ≤ 8 := by
  cases h with
  | raised e => exact (errorCode_range e).2
  | _ => simp

theorem ending_pend : t.pend = none := by
  cases h <;> rfl

theorem ending_sameRest : SameRest s t := by
  cases h <;> exact ⟨rfl, rfl, rfl, rfl, rfl, rfl, rfl⟩

/-- Only a string ends with TXT changed, and it leaves the canonical form: at most 173 bytes from TXT[0]. -/
theorem ending_txt_wf (hwf : Memory.wf s.txt) : Memory.wf t.txt := by
  cases h with
  | string str hlen => exact wf_writeBytes hwf (by simp only [Config.txtCap]; omega)
  | _ => exact hwf

/-- No byte at or above the new LEN is changed. -/
theorem ending_later_bytes {k : Nat} (hk : t.len.toNat ≤ k) : readByte t.txt k = readByte s.txt k := by
  cases h with
  | string str hlen =>
    have hk : str.length ≤ k := by
      simpa [Nat.mod_eq_of_lt (show str.length < 512 by omega)] using hk
    simp [readByte_writeBytes, hk]
  | _ => rfl

end

/-- A pending word ends as a command does: an illegal word raises an error (30_encoding R86). -/
theorem ending_of_runWord {c : Word32} {s t : State} (h : runWord c s = .next t) : Ending s t := by
  obtain ⟨i, -, hrun⟩ | ⟨why, -, hrun⟩ := runWord_cases c s
  · obtain ⟨u, hu, hend⟩ := exec_ending i s
    obtain rfl := Host.Outcome.next.inj ((hrun.trans hu).symm.trans h)
    exact hend
  · obtain rfl := Host.Outcome.next.inj (hrun.symm.trans h)
    exact .raised _

/-! ### What a command writes besides -/

section
variable {i : Instr} {s t : State} (h : CommandEnding i s t)
include h

theorem CommandEnding.ending : Ending s t := by
  cases h with
  | raised e => exact .raised e
  | element r v => exact .element r v
  | accumulator p => exact .accumulator p
  | both r v p => exact .both r v p
  | string str hlen => exact .string str hlen
  | tr => exact .tr _
  | eq => exact .eq _

theorem CommandEnding.readF_of_ne {r : RegIx} (hr : destination i ≠ some r) : readF t r = readF s r := by
  cases h with
  | element q v hd => exact readF_writeF_ne s (fun e => hr (hd.trans (congrArg some e.symm))) v
  | both q v p hd => exact readF_writeF_ne s (fun e => hr (hd.trans (congrArg some e.symm))) v
  | _ => rfl

theorem CommandEnding.w (hw : ¬ WritesW i) : t.w = s.w := by
  cases h with
  | accumulator p hw' => exact absurd hw' hw
  | both r v p hd hw' => exact absurd hw' hw
  | _ => rfl

theorem CommandEnding.text (ht : ¬ WritesText i) : t.txt = s.txt ∧ t.len = s.len := by
  cases h with
  | string str hlen ht' => exact absurd ht' ht
  | _ => exact ⟨rfl, rfl⟩

/-- TR changes only by a TRACE that completes, to bit 0 of its accumulator (45_trace R160). -/
theorem CommandEnding.trFlag : t.trFlag = s.trFlag ∨
    ∃ rs1, i = .trace rs1 ∧ t.err = 0 ∧ t.trFlag = (traceAcc (readF s rs1)).getLsbD 0 := by
  cases h with
  | tr rs1 hi => exact .inr ⟨rs1, hi, rfl, rfl⟩
  | _ => exact .inl rfl

/-- EQ changes only by an EQ that completes, to whether its operands are equal (48_equality R200). -/
theorem CommandEnding.eqFlag : t.eqFlag = s.eqFlag ∨
    ∃ rs1 rs2, i = .eq rs1 rs2 ∧ t.err = 0 ∧ (t.eqFlag = true ↔ readF s rs1 = readF s rs2) := by
  cases h with
  | eq rs1 rs2 hi => exact .inr ⟨rs1, rs2, hi, rfl, by simp⟩
  | _ => exact .inl rfl

end

/-- Settles O36: the flags and STICKY of `CommandEnding.trFlag`, `.eqFlag` and `ending_sticky_iff`. -/
theorem statusFieldsByCommand : Obligations.StatusFieldsByCommand := by
  intro i s
  obtain ⟨t, ht, hend⟩ := exec_commandEnding i s
  have hsticky := ending_sticky_iff hend.ending
  refine ⟨t, ht, hend.ending.busy, fun h0 => ⟨?_, fun hi => ?_, fun hi => ?_⟩, fun h0 => ⟨?_, ?_, ?_⟩⟩
  · exact Bool.eq_iff_iff.mpr (by simpa [h0] using hsticky)
  · exact hend.trFlag.resolve_right fun ⟨rs1, h, _⟩ => hi rs1 h
  · exact hend.eqFlag.resolve_right fun ⟨rs1, rs2, h, _⟩ => hi rs1 rs2 h
  · exact hsticky.mpr (.inr h0)
  · exact hend.trFlag.resolve_right fun ⟨_, _, h, _⟩ => h0 h
  · exact hend.eqFlag.resolve_right fun ⟨_, _, _, h, _⟩ => h0 h

/-- Settles O38: one lemma about `CommandEnding` for each piece of state. -/
theorem commandsChangeOnlyNamedState : Obligations.CommandsChangeOnlyNamedState := by
  intro i s t h
  have hend := commandEnding_of_exec h
  refine ⟨fun r hr => hend.readF_of_ne hr, hend.w, fun ht => ?_, fun k hk => ending_later_bytes hend.ending hk,
    fun hi => ?_, fun hi => ?_, ending_sticky_iff hend.ending, ending_pend hend.ending, hend.ending.busy,
    ending_sameRest hend.ending⟩
  · obtain ⟨htxt, hlen⟩ := hend.text ht
    exact ⟨fun k => by rw [htxt], hlen⟩
  · exact hend.trFlag.resolve_right fun ⟨rs1, h, _⟩ => hi rs1 h
  · exact hend.eqFlag.resolve_right fun ⟨rs1, rs2, h, _⟩ => hi rs1 rs2 h

end Sys2Proof.Proofs.Endings
end

section
/-! PROOFS. The register window: which offsets store, what a served read answers, and what a write does to each STATUS
field (10_state R28, R33, R34, 20_memory R60, R61). -/

namespace Sys2Proof.Proofs.Window

open Sys2Proof.Machine Sys2Proof.Claims Sys2Proof.Proofs.Turns

/-! ### Offsets -/

theorem misaligned_eq_false_iff (off : Offset) : misaligned off = false ↔ off.toNat % 4 = 0 := by
  simp [misaligned, ← BitVec.toNat_inj]

theorem locate_eq_status_iff (off : Offset) : locate off = .status ↔ off = 0x004 := by
  constructor
  · intro h
    apply BitVec.eq_of_toNat_eq
    simp only [locate] at h
    split_ifs at h
    assumption
  · rintro rfl
    rfl

/-- The storing places as ranges of offsets; in an element window the words 0 to 5 store, in W's the words 0 to 10. -/
theorem storing_locate_iff (off : Offset) :
    storing (locate off) = true ↔ off.toNat = 0x000 ∨ off.toNat = 0x008 ∨ (0x100 ≤ off.toNat ∧ off.toNat < 0x200) ∨
      (0x400 ≤ off.toNat ∧ off.toNat < 0x600 ∧ (off.toNat - 0x400) / 4 % 8 ≤ 5) ∨
      (0x600 ≤ off.toNat ∧ off.toNat < 0x640 ∧ (off.toNat - 0x600) / 4 % 16 ≤ 10) := by
  simp only [locate]
  split_ifs <;> simp [storing] <;> omega

/-- STORING in the words of the statements is what the port tests (20_memory R61). -/
theorem storingOffset_iff (off : Offset) :
    StoringOffset off ↔ misaligned off = false ∧ storing (locate off) = true := by
  rw [misaligned_eq_false_iff, storing_locate_iff]
  constructor
  · rintro (h | h | ⟨k, hk, h⟩ | ⟨i, w, hi, hw, h⟩ | ⟨w, hw, h⟩) <;> omega
  · rintro ⟨ha, h | h | ⟨h1, h2⟩ | ⟨h1, h2, h3⟩ | ⟨h1, h2, h3⟩⟩
    · exact .inl h
    · exact .inr (.inl h)
    · exact .inr (.inr (.inl ⟨(off.toNat - 0x100) / 4, by omega, by omega⟩))
    · exact .inr (.inr (.inr (.inl ⟨(off.toNat - 0x400) / 32, (off.toNat - 0x400) / 4 % 8, by omega, h3, by omega⟩)))
    · exact .inr (.inr (.inr (.inr ⟨(off.toNat - 0x600) / 4, by omega, by omega⟩)))

/-! ### Reads -/

theorem hostRead_sameBlock (off : Offset) (rest : List Event) (s : State) :
    SameBlock s (hostRead off (afterArrival rest s)) := by
  obtain ⟨a, d, h⟩ := hostRead_cases off (afterArrival rest s)
  rw [h]
  exact sameBlock_answered (some a) d rest s

theorem readLoc_afterArrival (rest : List Event) (s : State) (l : Loc) :
    readLoc (afterArrival rest s) l = readLoc s l := by
  cases l <;> rfl

/-- While BUSY = 0, and at CMD, STATUS and ID always, an aligned read answers what is at its place (20_memory R60,
R62). -/
theorem step_read_exact {s : State} {off : Offset} {rest : List Event} (h : HostTurn s (hr off) rest)
    (hreset : s.inReset = false) (ha : misaligned off = false)
    (hexact : s.busy = false ∨ exactWhileBusy (locate off) = true) :
    ∃ t, step s = .next t ∧ t.resp = some (.data (readLoc s (locate off))) ∧ SameBlock s t := by
  refine ⟨_, step_read h hreset, ?_, hostRead_sameBlock off rest s⟩
  have hfree : ¬ (((afterArrival rest s).busy && !exactWhileBusy (locate off)) = true) := by
    rcases hexact with h | h <;> simp [h]
  rw [hostRead, if_neg (by simp [ha]), if_neg hfree, respond_resp, readLoc_afterArrival]

/-! ### Writes -/

/-- A write while BUSY = 0, or to a place that does not store, is performed. -/
theorem hostWrite_performed {off : Offset} {v : Word32} {s : State} (ha : misaligned off = false)
    (hbusy : s.busy = true → storing (locate off) = false) :
    hostWrite off v s = respond .ok (writeLoc v s (locate off)) := by
  rw [hostWrite, if_neg (by simp [ha]), if_neg (by simpa using hbusy)]

theorem hostWrite_dropped {off : Offset} {v : Word32} {s : State} (hst : StoringOffset off) (hbusy : s.busy = true) :
    hostWrite off v s = respond .ok (setOverrun s) := by
  obtain ⟨ha, hl⟩ := (storingOffset_iff off).mp hst
  rw [hostWrite, if_neg (by simp [ha]), if_pos (by simp [hbusy, hl])]

section
variable (off : Offset) (v : Word32) (s : State)

/-- Only a write to STATUS touches STICKY, and it clears it by bit 8. -/
theorem writeLoc_sticky (l : Loc) :
    (writeLoc v s l).sticky = (s.sticky && !(decide (l = .status) && v.getLsbD 8)) := by
  cases l <;> simp [writeLoc]

/-- Only a write to STATUS touches OVERRUN, and it clears it by bit 9. -/
theorem writeLoc_overrun (l : Loc) :
    (writeLoc v s l).overrun = (s.overrun && !(decide (l = .status) && v.getLsbD 9)) := by
  cases l <;> simp [writeLoc]

theorem writeLoc_results (l : Loc) :
    (writeLoc v s l).trFlag = s.trFlag ∧ (writeLoc v s l).eqFlag = s.eqFlag ∧ (writeLoc v s l).err = s.err := by
  cases l <;> exact ⟨rfl, rfl, rfl⟩

theorem hostWrite_sticky : (hostWrite off v s).sticky = (s.sticky && !(decide (off = 0x004) && v.getLsbD 8)) := by
  rcases hostWrite_cases off v s with ⟨ha, h⟩ | ⟨-, -, hl, h⟩ | ⟨-, -, h⟩
  · have : off ≠ 0x004 := by rintro rfl; exact absurd ha (by decide)
    rw [h, decide_eq_false this]
    simp
  · have : off ≠ 0x004 := by rintro rfl; exact absurd hl (by decide)
    rw [h, decide_eq_false this]
    simp
  · simp [h, writeLoc_sticky, locate_eq_status_iff]

/-- A dropped write sets OVERRUN, a STATUS write clears it by bit 9, and no other write touches it (10_state R34). -/
theorem hostWrite_overrun :
    (s.busy = true ∧ StoringOffset off ∧ (hostWrite off v s).overrun = true) ∨
    (hostWrite off v s).overrun = (s.overrun && !(decide (off = 0x004) && v.getLsbD 9)) := by
  rcases hostWrite_cases off v s with ⟨ha, h⟩ | ⟨ha, hb, hl, h⟩ | ⟨-, -, h⟩
  · have : off ≠ 0x004 := by rintro rfl; exact absurd ha (by decide)
    exact .inr (by rw [h, decide_eq_false this]; simp)
  · exact .inl ⟨hb, (storingOffset_iff off).mpr ⟨ha, hl⟩, by simp [h]⟩
  · exact .inr (by simp [h, writeLoc_overrun, locate_eq_status_iff])

theorem hostWrite_results : (hostWrite off v s).trFlag = s.trFlag ∧ (hostWrite off v s).eqFlag = s.eqFlag ∧
    (hostWrite off v s).err = s.err := by
  rcases hostWrite_cases off v s with ⟨-, h⟩ | ⟨-, -, -, h⟩ | ⟨-, -, h⟩
  · simp [h]
  · simp [h]
  · simpa [h] using writeLoc_results v s (locate off)

end

end Sys2Proof.Proofs.Window
end

section
/-! PROOFS. The invariant: every operation keeps it, so every step does (10_state R26, R29,
70_reset_and_hazards R240). -/

namespace Sys2Proof.Proofs.Invariant

open Sys2Proof.Machine Sys2Proof.Claims Sys2Proof.Proofs.Turns Sys2Proof.Proofs.Endings

theorem inv_resetBlock (b : Bool) (s : State) : Inv (resetBlock b s) :=
  ⟨wf_nil, by simp, fun c h => by simp at h, fun _ => rfl⟩

theorem inv_of_ending {s t : State} (h : Inv s) (hend : Ending s t) : Inv t :=
  ⟨ending_txt_wf hend h.txt, ending_err_le hend, fun c hc => by simp [ending_pend hend] at hc,
    fun _ => ending_pend hend⟩

section
variable {s : State} (h : Inv s)
include h

theorem inv_afterArrival (rest : List Event) : Inv (afterArrival rest s) := ⟨h.txt, h.err, h.pend, h.reset⟩

theorem inv_respond (a : Response) : Inv (respond a s) := ⟨h.txt, h.err, h.pend, h.reset⟩

theorem inv_setOverrun : Inv (setOverrun s) := ⟨h.txt, h.err, h.pend, h.reset⟩

theorem inv_hostRead (off : Offset) : Inv (hostRead off s) := by
  obtain ⟨a, d, e⟩ := hostRead_cases off s
  rw [e]
  exact ⟨h.txt, h.err, h.pend, h.reset⟩

/-- Outside reset a CMD write makes its word LASTCMD and pending, a text write stays below TXT_CAP, and no other write
touches what the invariant speaks of. -/
theorem inv_writeLoc (hreset : s.inReset = false) (v : Word32) (l : Loc) : Inv (writeLoc v s l) := by
  cases l with
  | cmd => exact ⟨h.txt, h.err, fun c hc => Option.some.inj hc, fun hr => absurd hr (by simp [writeLoc, hreset])⟩
  | txt k => exact ⟨wf_writeBytes h.txt (by simp [Config.txtCap]; omega), h.err, h.pend, h.reset⟩
  | _ => exact ⟨h.txt, h.err, h.pend, h.reset⟩

theorem inv_hostWrite (hreset : s.inReset = false) (off : Offset) (v : Word32) : Inv (hostWrite off v s) := by
  rcases hostWrite_cases off v s with ⟨-, e⟩ | ⟨-, -, -, e⟩ | ⟨-, -, e⟩ <;> rw [e]
  · exact inv_respond h _
  · exact inv_respond (inv_setOverrun h) _
  · exact inv_respond (inv_writeLoc h hreset v _) _

end

/-- Settles O60: one lemma for each kind of step. -/
theorem stepKeepsInvariant : Obligations.StepKeepsInvariant := by
  intro s t h hs
  cases stepCase_of_step hs with
  | engine c turn hrun => exact inv_of_ending h (ending_of_runWord hrun)
  | reset b rest => exact inv_resetBlock b _
  | read off rest => exact inv_hostRead (inv_afterArrival h rest) off
  | write off v rest turn hreset => exact inv_hostWrite (inv_afterArrival h rest) hreset off v
  | idle => exact h

/-- Settles O59: State.reset is what a reset of the block leaves. -/
theorem invariantAtReset : Obligations.InvariantAtReset := inv_resetBlock false State.reset

end Sys2Proof.Proofs.Invariant
end

section
/-! PROOFS. The STATUS fields over any step: who sets and who clears STICKY and OVERRUN, who writes TR, EQ and ERR
(10_state R30 to R34). -/

namespace Sys2Proof.Proofs.StatusWriters

open Sys2Proof.Machine Sys2Proof.Claims Sys2Proof.Proofs.Turns Sys2Proof.Proofs.Endings Sys2Proof.Proofs.Window

/-- Settles O44: `ending_sticky_iff` on the engine's turn, `hostWrite_sticky` on a write. -/
theorem stickyRecordsErrors : Obligations.StickyRecordsErrors := by
  intro s t hs
  refine ⟨fun c hturn => ?_, fun h0 h1 => ?_, fun h1 h0 => ?_⟩
  · have hsticky := ending_sticky_iff (ending_of_runWord ((step_engineTurn hturn).symm.trans hs))
    exact ⟨fun herr => hsticky.mpr (.inr herr), fun herr => Bool.eq_iff_iff.mpr (by simpa [herr] using hsticky)⟩
  · cases stepCase_of_step hs with
    | engine c turn hrun =>
      have herr := (ending_sticky_iff (ending_of_runWord hrun)).mp h1
      exact ⟨c, turn, herr.resolve_left (by simp [h0])⟩
    | reset b rest => cases h1
    | read off rest => simp [(hostRead_sameBlock off rest s).sticky, h0] at h1
    | write off v rest => simp [hostWrite_sticky, h0] at h1
    | idle => simp [h0] at h1
  · cases stepCase_of_step hs with
    | engine c turn hrun => simp [(ending_sticky_iff (ending_of_runWord hrun)).mpr (.inl h1)] at h0
    | reset b rest turn => exact .inr ⟨b, rest, turn⟩
    | read off rest => simp [(hostRead_sameBlock off rest s).sticky, h1] at h0
    | write off v rest turn =>
      simp only [hostWrite_sticky, afterArrival_sticky, h1, Bool.true_and, Bool.not_eq_false', Bool.and_eq_true,
        decide_eq_true_eq] at h0
      obtain ⟨rfl, hbit⟩ := h0
      exact .inl ⟨v, rest, turn, hbit⟩
    | idle => simp [h1] at h0

/-- Settles O45: `hostWrite_overrun`; the engine and a read leave OVERRUN. -/
theorem overrunRecordsDroppedWrites : Obligations.OverrunRecordsDroppedWrites := by
  intro s t hs
  refine ⟨fun off v rest hturn hbusy hst => ?_, fun h0 h1 => ?_, fun h1 h0 => ?_⟩
  · rw [eq_hostWrite_of_step hturn hs, hostWrite_dropped hst (by simpa using hbusy)]
    rfl
  · cases stepCase_of_step hs with
    | engine c turn hrun => simp [(ending_sameRest (ending_of_runWord hrun)).overrun, h0] at h1
    | reset b rest => cases h1
    | read off rest => simp [(hostRead_sameBlock off rest s).overrun, h0] at h1
    | write off v rest turn =>
      obtain ⟨hbusy, hst, -⟩ | hkeep := hostWrite_overrun off v (afterArrival rest s)
      · exact ⟨off, v, rest, turn, hbusy, hst⟩
      · simp [hkeep, h0] at h1
    | idle => simp [h0] at h1
  · cases stepCase_of_step hs with
    | engine c turn hrun => simp [(ending_sameRest (ending_of_runWord hrun)).overrun, h1] at h0
    | reset b rest turn => exact .inr ⟨b, rest, turn⟩
    | read off rest => simp [(hostRead_sameBlock off rest s).overrun, h1] at h0
    | write off v rest turn =>
      obtain ⟨-, -, hset⟩ | hkeep := hostWrite_overrun off v (afterArrival rest s)
      · simp [hset] at h0
      · simp only [hkeep, afterArrival_overrun, h1, Bool.true_and, Bool.not_eq_false', Bool.and_eq_true,
          decide_eq_true_eq] at h0
        obtain ⟨rfl, hbit⟩ := h0
        exact .inl ⟨v, rest, turn, hbit⟩
    | idle => simp [h1] at h0

/-- A step that is no reset is the engine's, or leaves TR, EQ and ERR. -/
theorem engine_or_same_results {s t : State} (hs : step s = .next t)
    (hreset : ∀ b rest, ¬ HostTurn s (.resetLevel b) rest) :
    (∃ c, EngineTurn s c ∧ runWord c s = .next t) ∨
      (t.trFlag = s.trFlag ∧ t.eqFlag = s.eqFlag ∧ t.err = s.err) := by
  cases stepCase_of_step hs with
  | engine c turn hrun => exact .inl ⟨c, turn, hrun⟩
  | reset b rest turn => exact absurd turn (hreset b rest)
  | read off rest =>
    have hsame := hostRead_sameBlock off rest s
    exact .inr ⟨hsame.flags.tr, hsame.flags.eq, hsame.err⟩
  | write off v rest => exact .inr (hostWrite_results off v _)
  | idle => exact .inr ⟨rfl, rfl, rfl⟩

/-- Settles O46: on the engine's turn by `CommandEnding.trFlag` and `.eqFlag`. -/
theorem resultFlagsHaveOneWriter : Obligations.ResultFlagsHaveOneWriter := by
  intro s t hs hreset
  obtain ⟨c, turn, hrun⟩ | ⟨htr, heq, herr⟩ := engine_or_same_results hs hreset
  · obtain ⟨i, hi, he⟩ | ⟨why, -, he⟩ := runWord_cases c s
    · have hend := commandEnding_of_exec (he.symm.trans hrun)
      refine ⟨fun hne => ?_, fun hne => ?_, fun _ => ⟨c, turn⟩⟩
      · obtain ⟨rs1, rfl, h⟩ := hend.trFlag.resolve_left hne
        exact ⟨c, rs1, turn, hi, h⟩
      · obtain ⟨rs1, rs2, rfl, h⟩ := hend.eqFlag.resolve_left hne
        exact ⟨c, rs1, rs2, turn, hi, h⟩
    · obtain rfl := Host.Outcome.next.inj (he.symm.trans hrun)
      exact ⟨absurd rfl, absurd rfl, fun _ => ⟨c, turn⟩⟩
  · exact ⟨absurd htr, absurd heq, absurd herr⟩

end Sys2Proof.Proofs.StatusWriters
end

section
/-! PROOFS. The registers CMD, STATUS, ID and TLEN at the port, and reset (10_state R26 to R28, R35, R39). -/

namespace Sys2Proof.Proofs.Registers

open Sys2Proof.Machine Sys2Proof.Claims Sys2Proof.Proofs.Turns Sys2Proof.Proofs.Endings Sys2Proof.Proofs.Window

theorem busy_eq_false {s : State} (h : s.pend = none) : s.busy = false := by
  simp [State.busy, h]

/-- A write while BUSY = 0, or to a place that does not store, is performed and answered Ok. -/
theorem step_write_performed {s : State} {off : Offset} {v : Word32} {rest : List Event}
    (h : HostTurn s (hw off v) rest) (hreset : s.inReset = false) (ha : misaligned off = false)
    (hbusy : s.busy = true → storing (locate off) = false) :
    step s = .next (respond .ok (writeLoc v (afterArrival rest s) (locate off))) := by
  rw [step_write h hreset, hostWrite_performed (s := afterArrival rest s) ha hbusy]

/-- With no event left the engine runs the pending command. -/
theorem step_of_inbox_nil {s : State} {c : Word32} {i : Instr} (hp : s.pend = some c) (hreset : s.inReset = false)
    (hi : s.inbox = []) (hd : decode c = .command i) : step s = exec i s := by
  rw [step_engineTurn ⟨hp, hreset, .inr hi⟩, runWord, hd]

/-- Settles O41: an accepted write, a dropped write and an exact read of CMD. -/
theorem cmdRegisterAcceptsAndRuns : Obligations.CmdRegisterAcceptsAndRuns := by
  refine ⟨fun s c rest h hreset hp => ?_, fun s c rest h hreset hbusy => ?_, fun s rest h hreset => ?_, rfl⟩
  · have hidle : s.busy = true → storing (locate 0x000) = false := by simp [busy_eq_false hp]
    refine ⟨_, step_write_performed h hreset rfl hidle, rfl, rfl, rfl, rfl, rfl, ⟨fun _ => rfl, rfl, fun _ => rfl, rfl⟩,
      ⟨rfl, rfl⟩, rfl, rfl, rfl, hreset, fun hrest i hd => ?_⟩
    exact step_of_inbox_nil rfl hreset hrest hd
  · refine ⟨_, step_write h hreset, ?_⟩
    rw [hostWrite_dropped (.inl rfl) (by simpa using hbusy)]
    exact ⟨rfl, rfl, rfl⟩
  · exact step_read_exact h hreset rfl (.inr rfl)

/-- The STATUS word as the concatenation of its fields, at the sum of their widths. -/
theorem statusWord_eq_append (s : State) :
    statusWord s = (BitVec.ofBool s.overrun ++ BitVec.ofBool s.sticky ++ s.err ++ (0 : BitVec 1) ++
      BitVec.ofBool s.eqFlag ++ BitVec.ofBool s.trFlag ++ BitVec.ofBool s.busy).setWidth 32 := rfl

/-- The fields of the STATUS word (10_state R28). -/
theorem statusWord_bits (s : State) :
    (statusWord s).getLsbD 0 = s.busy ∧ (statusWord s).getLsbD 1 = s.trFlag ∧ (statusWord s).getLsbD 2 = s.eqFlag ∧
      (statusWord s).getLsbD 3 = false ∧ (∀ j, j < 4 → (statusWord s).getLsbD (4 + j) = s.err.getLsbD j) ∧
      (statusWord s).getLsbD 8 = s.sticky ∧ (statusWord s).getLsbD 9 = s.overrun ∧
      (∀ j, 10 ≤ j → (statusWord s).getLsbD j = false) := by
  have hhigh : ∀ j, 10 ≤ j → (statusWord s).getLsbD j = false := fun j hj => by
    rw [statusWord, BitVec.getLsbD_setWidth, BitVec.getLsbD_of_ge _ _ hj, Bool.and_false]
  simp only [statusWord_eq_append, BitVec.getLsbD_setWidth, BitVec.getLsbD_append, BitVec.getLsbD_ofBool] at hhigh ⊢
  refine ⟨rfl, rfl, rfl, rfl, fun j hj => ?_, rfl, rfl, hhigh⟩
  interval_cases j <;> rfl

/-- Settles O49: an exact read, and a write that BUSY does not stop. -/
theorem statusRegisterFields : Obligations.StatusRegisterFields := by
  refine ⟨fun s rest h hreset => ?_, fun s v rest h hreset => ?_, rfl, rfl, rfl, rfl, rfl, rfl⟩
  · obtain ⟨t, ht, hresp, hsame⟩ := step_read_exact h hreset rfl (.inr rfl)
    obtain ⟨h0, h1, h2, h3, herr, h8, h9, hhigh⟩ := statusWord_bits s
    exact ⟨t, statusWord s, ht, hresp, h0, h1, h2, h3, herr, h8, h9, hhigh, hsame⟩
  · refine ⟨_, step_write_performed h hreset rfl (fun _ => rfl), rfl, ?_, ?_, ⟨fun _ => rfl, rfl, fun _ => rfl, rfl⟩,
      ⟨rfl, rfl⟩, rfl, rfl, rfl⟩
    · simp [writeLoc_sticky, locate_eq_status_iff]
    · simp [writeLoc_overrun, locate_eq_status_iff]

/-- Where the length is checked first, TXT_RANGE is raised exactly above TXT_CAP (47_text R184, R185). -/
theorem txtRange_iff {s t : State} (ht : t.err ≠ 5) :
    (if textLength s > Config.txtCap then raiseCmdError .txtRange s else t).err = 5 ↔ 256 < s.len.toNat := by
  split
  case isTrue h => exact iff_of_true rfl h
  case isFalse h => exact iff_of_false ht h

theorem parseb_txtRange_iff (rd : RegIx) (s : State) :
    ∃ t, exec (.parseb rd) s = .next t ∧ (t.err = 5 ↔ 256 < s.len.toNat) :=
  ⟨_, rfl, txtRange_iff (by split_ifs <;> simp [errorCode])⟩

theorem parseh_txtRange_iff (rd : RegIx) (s : State) :
    ∃ t, exec (.parseh rd) s = .next t ∧ (t.err = 5 ↔ 256 < s.len.toNat) :=
  ⟨_, rfl, txtRange_iff (by split_ifs <;> simp [errorCode])⟩

theorem fmth_len (rs1 : RegIx) (s : State) :
    ∃ t, exec (.fmth rs1) s = .next t ∧ t.len.toNat = Nat.log 16 (readF s rs1).toNat + 1 := by
  refine ⟨_, rfl, ?_⟩
  have hlen := length_hexString_le (readF s rs1)
  rw [← length_hexString]
  simp only [complete_len, writeString_len, BitVec.toNat_ofNat]
  omega

/-- Settles O56: exact reads, performed writes, and the lengths of `parseb_txtRange_iff`, `parseh_txtRange_iff` and
`fmth_len`. -/
theorem idAndLengthRegisters : Obligations.IdAndLengthRegisters := by
  refine ⟨fun s rest h hreset => step_read_exact h hreset rfl (.inr rfl), fun s v rest h hreset => ?_,
    fun s v rest h hreset hp => ?_, fun s rest h hreset hp => ?_, parseb_txtRange_iff, parseh_txtRange_iff,
    fun rs1 s => ⟨_, rfl, by simp⟩, fmth_len, rfl⟩
  · exact ⟨_, step_write_performed h hreset rfl (fun _ => rfl), rfl,
      sameBlock_answered (some .ok) s.draws rest s⟩
  · have hidle : s.busy = true → storing (locate 0x008) = false := by simp [busy_eq_false hp]
    exact ⟨_, step_write_performed h hreset rfl hidle, rfl, BitVec.toNat_setWidth .., fun _ => rfl, rfl, fun _ => rfl,
      ⟨rfl, rfl⟩, hp, rfl, rfl, rfl, rfl, hreset, rfl⟩
  · obtain ⟨t, ht, hresp, hsame⟩ := step_read_exact h hreset rfl (.inl (busy_eq_false hp))
    refine ⟨t, s.len.setWidth 32, ht, hresp, ?_, hsame⟩
    simp
    omega

/-- Everything at its reset value (10_state R39). -/
theorem resetBlock_cleared (b : Bool) (s : State) :
    (∀ r, readF (resetBlock b s) r = 0) ∧ (resetBlock b s).w = 0 ∧ (∀ k, readByte (resetBlock b s).txt k = 0x00) ∧
      (resetBlock b s).len = 0 ∧ (resetBlock b s).lastcmd = 0 ∧ statusWord (resetBlock b s) = 0 ∧
      (resetBlock b s).pend = none :=
  ⟨readF_resetBlock b s, rfl, fun _ => rfl, rfl, rfl, by simp [statusWord], rfl⟩

/-- Settles O58: State.reset is what a reset of the block leaves. -/
theorem resetClearsEverything : Obligations.ResetClearsEverything :=
  ⟨fun _ b _ h => ⟨_, step_reset h, rfl, rfl, resetBlock_cleared b _⟩, resetBlock_cleared false State.reset⟩

end Sys2Proof.Proofs.Registers
end

section
/-! PROOFS. A command's results depend on its operands only (20_memory R63): two runs whose operands agree write the same
value to the same place, or raise the same error. -/

namespace Sys2Proof.Proofs.Noninterference

open Sys2Proof.Machine Sys2Proof.Claims

/-- Two ends of command `i` agree: on ERR, and without an error on the results. -/
def Agree (i : Instr) (t t' : State) : Prop := t.err = t'.err ∧ (t.err = 0 → SameResults i t t')

section
variable {i : Instr} {s s' : State}

theorem agree_raised (e : CmdError) : Agree i (raiseCmdError e s) (raiseCmdError e s') :=
  ⟨rfl, fun h => by cases e <;> cases h⟩

/-- A command with a destination writes no text, TR or EQ, so its register and W are its results. -/
theorem sameResults_of_destination {rd : RegIx} (hd : destination i = some rd) (hf : readF s rd = readF s' rd)
    (hw : WritesW i → s.w = s'.w) : SameResults i s s' where
  f r hr := by
    obtain rfl := Option.some.inj (hd.symm.trans hr)
    exact hf
  w := hw
  text h := by rcases h with ⟨_, rfl⟩ | ⟨_, rfl⟩ <;> cases hd
  tr h := by obtain ⟨_, rfl⟩ := h; cases hd
  eq h := by obtain ⟨_, _, rfl⟩ := h; cases hd

theorem agree_element {rd : RegIx} {v v' : Element} (hd : destination i = some rd) (hw : ¬ WritesW i) (hv : v = v') :
    Agree i (complete (writeF rd v s)) (complete (writeF rd v' s')) :=
  ⟨rfl, fun _ => sameResults_of_destination hd (by simp [hv]) (fun h => absurd h hw)⟩

theorem agree_both {rd : RegIx} {v v' : Element} {p p' : Product} (hd : destination i = some rd) (hv : v = v')
    (hp : p = p') : Agree i (complete (writeW p (writeF rd v s))) (complete (writeW p' (writeF rd v' s'))) :=
  ⟨rfl, fun _ => sameResults_of_destination hd (by simp [hv]) (fun _ => hp)⟩

theorem agree_accumulator {p p' : Product} (hd : destination i = none) (hw : WritesW i) (hp : p = p') :
    Agree i (complete (writeW p s)) (complete (writeW p' s')) := by
  refine ⟨rfl, fun _ => ⟨fun r hr => ?_, fun _ => hp, fun h => ?_, fun h => ?_, fun h => ?_⟩⟩
  · cases hd.symm.trans hr
  · rcases h with ⟨_, rfl⟩ | ⟨_, rfl⟩ <;> simp [WritesW] at hw
  · obtain ⟨_, rfl⟩ := h
    simp [WritesW] at hw
  · obtain ⟨_, _, rfl⟩ := h
    simp [WritesW] at hw

theorem agree_trace (rs1 : RegIx) (b : Bool) : Agree (.trace rs1) (complete (setTr b s)) (complete (setTr b s')) :=
  ⟨rfl, fun _ => ⟨by simp [destination], by simp [WritesW], by simp [WritesText], fun _ => rfl, by simp⟩⟩

theorem agree_eq (rs1 rs2 : RegIx) (b : Bool) : Agree (.eq rs1 rs2) (complete (setEq b s)) (complete (setEq b s')) :=
  ⟨rfl, fun _ => ⟨by simp [destination], by simp [WritesW], by simp [WritesText], by simp, fun _ => rfl⟩⟩

/-- A formatter's string is its whole result: TLEN is its length and TXT below TLEN its characters. -/
theorem agree_string {str str' : List Byte} (ht : WritesText i) (h : str = str') :
    Agree i (complete (writeString str s)) (complete (writeString str' s')) := by
  subst h
  have hbytes : ∀ k, k < (BitVec.ofNat 9 str.length).toNat →
      readByte (writeBytes s.txt 0 str) k = readByte (writeBytes s'.txt 0 str) k := fun k hk => by
    have hk : k < str.length := hk.trans_le (by simpa using Nat.mod_le _ _)
    simp [readByte_writeBytes, hk]
  rcases ht with ⟨rs1, rfl⟩ | ⟨rs1, rfl⟩ <;>
    exact ⟨rfl, fun _ => ⟨by simp [destination], by simp [WritesW], fun _ => ⟨rfl, hbytes⟩, by simp, by simp⟩⟩

/-- Strings of one length with the same characters are the same operand (47_text R180). -/
theorem textString_congr (h : s.len = s'.len ∧ ∀ k, k < s.len.toNat → readByte s.txt k = readByte s'.txt k) :
    textLength s = textLength s' ∧ textString s = textString s' := by
  obtain ⟨hlen, hbyte⟩ := h
  have hl : textLength s = textLength s' := congrArg BitVec.toNat hlen
  refine ⟨hl, ?_⟩
  rw [textString, textString, ← hl]
  exact List.map_congr_left fun k hk => hbyte k (List.mem_range.mp hk)

end

/-- Runs from equal operands end in agreement, command by command: equal operands give the value written, the condition
of the error and the error. -/
theorem exec_agree {i : Instr} {s s' : State} (h : SameOperands i s s') :
    ∃ t t', exec i s = .next t ∧ exec i s' = .next t' ∧ Agree i t t' := by
  obtain ⟨hf, hw, htext⟩ := h
  cases i with
  | zero rd => exact ⟨_, _, rfl, rfl, agree_element rfl (by simp [WritesW]) rfl⟩
  | mov rd rs1 => exact ⟨_, _, rfl, rfl, agree_element rfl (by simp [WritesW]) (hf rs1 (by simp [sources]))⟩
  | add rd rs1 rs2 =>
    refine ⟨_, _, rfl, rfl, agree_element rfl (by simp [WritesW]) ?_⟩
    rw [hf rs1 (by simp [sources]), hf rs2 (by simp [sources])]
  | mul rd rs1 rs2 =>
    refine ⟨_, _, rfl, rfl, agree_element rfl (by simp [WritesW]) ?_⟩
    rw [hf rs1 (by simp [sources]), hf rs2 (by simp [sources])]
  | sqr rd rs1 =>
    exact ⟨_, _, rfl, rfl, agree_element rfl (by simp [WritesW]) (by rw [hf rs1 (by simp [sources])])⟩
  | pow rd rs1 rs2 =>
    refine ⟨_, _, rfl, rfl, agree_element rfl (by simp [WritesW]) ?_⟩
    rw [hf rs1 (by simp [sources]), hf rs2 (by simp [sources])]
  | inv rd rs1 =>
    refine ⟨_, _, rfl, rfl, ?_⟩
    rw [hf rs1 (by simp [sources])]
    split
    · exact agree_raised _
    · exact agree_element rfl (by simp [WritesW]) rfl
  | trace rs1 =>
    refine ⟨_, _, rfl, rfl, ?_⟩
    rw [hf rs1 (by simp [sources])]
    split
    · exact agree_trace rs1 _
    · exact agree_raised _
  | eq rs1 rs2 =>
    refine ⟨_, _, rfl, rfl, ?_⟩
    rw [hf rs1 (by simp [sources]), hf rs2 (by simp [sources])]
    exact agree_eq rs1 rs2 _
  | wclr => exact ⟨_, _, rfl, rfl, agree_accumulator rfl (by simp [WritesW]) rfl⟩
  | wxor rs1 sh =>
    refine ⟨_, _, rfl, rfl, ?_⟩
    rw [hf rs1 (by simp [sources]), hw (by simp [ReadsW])]
    split
    · exact agree_accumulator rfl (by simp [WritesW]) rfl
    · exact agree_raised _
  | clmul rs1 rs2 =>
    refine ⟨_, _, rfl, rfl, agree_accumulator rfl (by simp [WritesW]) ?_⟩
    rw [hf rs1 (by simp [sources]), hf rs2 (by simp [sources])]
  | spread rs1 =>
    exact ⟨_, _, rfl, rfl, agree_accumulator rfl (by simp [WritesW]) (by rw [hf rs1 (by simp [sources])])⟩
  | red rd =>
    have h : s.w = s'.w := hw (by simp [ReadsW])
    exact ⟨_, _, rfl, rfl, agree_both rfl (by rw [h]) (by rw [h])⟩
  | parseb rd =>
    obtain ⟨hlen, hstr⟩ := textString_congr (htext (by simp [ReadsText]))
    refine ⟨_, _, rfl, rfl, ?_⟩
    rw [hlen, hstr]
    split_ifs
    · exact agree_raised _
    · exact agree_raised _
    · exact agree_element rfl (by simp [WritesW]) rfl
    · exact agree_raised _
  | parseh rd =>
    obtain ⟨hlen, hstr⟩ := textString_congr (htext (by simp [ReadsText]))
    refine ⟨_, _, rfl, rfl, ?_⟩
    rw [hlen, hstr]
    split_ifs
    · exact agree_raised _
    · exact agree_raised _
    · exact agree_element rfl (by simp [WritesW]) rfl
    · exact agree_raised _
  | fmtb rs1 =>
    exact ⟨_, _, rfl, rfl, agree_string (by simp [WritesText]) (by rw [hf rs1 (by simp [sources])])⟩
  | fmth rs1 =>
    exact ⟨_, _, rfl, rfl, agree_string (by simp [WritesText]) (by rw [hf rs1 (by simp [sources])])⟩

/-- Settles O39: `exec_agree`, and a command has one end. -/
theorem resultsDependOnOperandsOnly : Obligations.ResultsDependOnOperandsOnly := by
  intro i s s' t t' h ht ht'
  obtain ⟨u, u', hu, hu', hagree⟩ := exec_agree h
  obtain rfl := Host.Outcome.next.inj (hu.symm.trans ht)
  obtain rfl := Host.Outcome.next.inj (hu'.symm.trans ht')
  exact hagree

end Sys2Proof.Proofs.Noninterference
end

section
/-! PROOFS. Accesses of the window: which are refused, misaligned ones, reads and what they leave, writes while BUSY = 1,
and the reserved places (20_memory R50 to R52, R59 to R62, R66). -/

namespace Sys2Proof.Proofs.Accesses

open Sys2Proof.Machine Sys2Proof.Claims Sys2Proof.Proofs.Turns Sys2Proof.Proofs.Window Sys2Proof.Proofs.Registers

/-! ### Accesses that stop, misaligned accesses -/

@[simp] theorem afterArrival_inReset (rest : List Event) (s : State) : (afterArrival rest s).inReset = s.inReset := rfl

theorem windowOffset_outside {a : Nat} (h : a < Config.gfBase ∨ Config.gfBase + 0x1000 ≤ a) : windowOffset a = none := by
  rw [windowOffset, if_neg (by omega)]

/-- GF_BASE is a multiple of 0x1000 (20_memory R50). -/
theorem gfBase_mod : Config.gfBase % 0x1000 = 0 :=
  Nat.mod_eq_zero_of_dvd (Dvd.intro_left _ rfl)

/-- Settles O57: the branches of `performAccess` in their order. -/
theorem accessesThatStop : Obligations.AccessesThatStop := by
  refine ⟨gfBase_mod, fun s width a op rest h hout => ?_, fun s width off op rest h hwidth hreset => ?_,
    fun s width off op rest h hreset => ?_⟩
  · rw [step_hostTurn h, performEvent, windowOffset_outside hout]
    rfl
  · rw [step_hostTurn h, performEvent, windowOffset_base]
    simp [performAccess, hreset, hwidth]
  · rw [step_hostTurn h, performEvent, windowOffset_base]
    simp [performAccess, hreset]

/-- A 32-bit access of the window outside reset is performed, read or write. -/
theorem step_access {s : State} {off : Offset} {op : BusOp} {rest : List Event}
    (h : HostTurn s (.access .bits32 (Config.gfBase + off.toNat) op) rest) (hreset : s.inReset = false) :
    step s = .next (performOp off op (afterArrival rest s)) := by
  rw [step_hostTurn h]
  exact performEvent_access off op hreset

/-- A misaligned access, read or write, is answered with a bus error (20_memory R52). -/
theorem performOp_misaligned {off : Offset} (h : misaligned off = true) (op : BusOp) (s : State) :
    performOp off op s = respond .busError s := by
  cases op with
  | read => exact if_pos h
  | write v => exact if_pos h

/-- Settles O47: `performOp_misaligned`; only the port's answer is written. -/
theorem misalignedAccessIsBusError : Obligations.MisalignedAccessIsBusError := by
  intro s off op rest hoff hreset h
  have hmis : misaligned off = true := by
    rw [← Bool.not_eq_false, misaligned_eq_false_iff]
    exact hoff
  refine ⟨_, step_access h hreset, ?_⟩
  rw [performOp_misaligned hmis]
  exact ⟨rfl, sameBlock_answered (some .busError) s.draws rest s, rfl⟩

/-! ### Reads -/

/-- An aligned read is answered with a word, what is at its place unless it is drawn (20_memory R60, R62). -/
theorem step_read_aligned {s : State} {off : Offset} {rest : List Event} (h : HostTurn s (hr off) rest)
    (hreset : s.inReset = false) (ha : misaligned off = false) :
    ∃ t v, step s = .next t ∧ t.resp = some (.data v) ∧ SameBlock s t ∧
      (s.busy = false ∨ exactWhileBusy (locate off) = true → v = readLoc s (locate off)) := by
  by_cases hexact : s.busy = false ∨ exactWhileBusy (locate off) = true
  · obtain ⟨t, ht, hresp, hsame⟩ := step_read_exact h hreset ha hexact
    exact ⟨t, _, ht, hresp, hsame, fun _ => rfl⟩
  · have hdraw : ((afterArrival rest s).busy && !exactWhileBusy (locate off)) = true := by simpa using hexact
    refine ⟨_, Config.busyRead s.draws off s.pend (operands s), step_read h hreset, ?_, hostRead_sameBlock off rest s,
      fun he => absurd he hexact⟩
    rw [hostRead, if_neg (by simp [ha]), if_pos hdraw]
    rfl

/-- Settles O54: CMD, STATUS and ID are the places read exactly while BUSY = 1. -/
theorem busyReadReturnsSomeWord : Obligations.BusyReadReturnsSomeWord := by
  intro s off rest h hreset _ hoff
  obtain ⟨t, v, ht, hresp, hsame, hv⟩ := step_read_aligned h hreset ((misaligned_eq_false_iff off).mpr hoff)
  refine ⟨t, v, ht, hresp, hsame, ?_, ?_, ?_⟩ <;> rintro rfl <;> exact hv (.inr rfl)

theorem hostRead_inbox (off : Offset) (s : State) : (hostRead off s).inbox = s.inbox := by
  obtain ⟨a, d, h⟩ := hostRead_cases off s
  rw [h]

/-- What a place reads as is part of the block. -/
theorem readLoc_of_sameBlock {s t : State} (h : SameBlock s t) (l : Loc) : readLoc t l = readLoc s l := by
  obtain ⟨⟨hf, hw, htxt, hlen⟩, ⟨htr, heq⟩, hcmd, hpend, herr, hsticky, hoverrun, -⟩ := h
  cases l <;> simp [readLoc, statusWord, State.busy, *]

/-- While BUSY = 0 the answer of a read is fixed by its offset and the block, and the next event is at hand. -/
theorem step_read_idle {s : State} {off : Offset} {rest : List Event} (h : HostTurn s (hr off) rest)
    (hreset : s.inReset = false) (hp : s.pend = none) :
    ∃ t, step s = .next t ∧ SameBlock s t ∧ t.inbox = rest ∧
      t.resp = some (if misaligned off then .busError else .data (readLoc s (locate off))) := by
  have hidle : (afterArrival rest s).busy = false := busy_eq_false hp
  refine ⟨_, step_read h hreset, hostRead_sameBlock off rest s, hostRead_inbox off _, ?_⟩
  cases ha : misaligned off <;> simp [hostRead, ha, hidle, readLoc_afterArrival]

/-- Settles O55: `hostRead_sameBlock`, and `step_read_idle` twice. -/
theorem readsHaveNoSideEffect : Obligations.ReadsHaveNoSideEffect := by
  refine ⟨fun s off rest h hreset => ?_, fun s off rest hi hreset hp => ?_⟩
  · exact ⟨_, step_read h hreset, hostRead_sameBlock off rest s, hostRead_inbox off _⟩
  · obtain ⟨t, ht, hst, hit, hresp⟩ := step_read_idle ⟨hi, .inl hp⟩ hreset hp
    have hpt : t.pend = none := hst.pend.trans hp
    obtain ⟨u, hu, -, -, hresp'⟩ := step_read_idle ⟨hit, .inl hpt⟩ (hst.inReset.trans hreset) hpt
    exact ⟨t, u, ht, hu, by rw [hresp', hresp, readLoc_of_sameBlock hst]⟩

/-! ### Writes while BUSY = 1 -/

/-- A write of a word that lies above the value's width is dropped whole (20_memory R56, R57). -/
theorem putWord_of_ge {n k : Nat} (h : n ≤ 32 * k) (v : BitVec n) (x : Word32) : putWord v k x = v := by
  apply BitVec.eq_of_getLsbD_eq
  intro b hb
  rw [getLsbD_putWord v k x b hb, if_neg (by omega)]

theorem writeF_readF (s : State) (r : RegIx) : writeF r (readF s r) s = s := by
  have hset : s.f.set r.val (readF s r) = s.f := Vector.set_getElem_self r.isLt
  rw [writeF, hset]

/-- A performed write to a place that does not store is a STATUS write or has no effect (20_memory R59, R61). -/
theorem writeLoc_of_not_storing {l : Loc} (h : storing l = false) (v : Word32) (s : State) :
    writeLoc v s l = if l = .status then clearStatus v s else s := by
  cases l with
  | cmd => cases h
  | status => rfl
  | tlen => cases h
  | id => rfl
  | txt k => cases h
  | elem r k =>
    have hk : 5 < k.val := by simpa [storing] using h
    rw [writeLoc, putWord_of_ge (by omega), writeF_readF, if_neg nofun]
  | acc k =>
    have hk : 10 < k.val := by simpa [storing] using h
    rw [writeLoc, putWord_of_ge (by omega), if_neg nofun]
    rfl
  | reserved => rfl

/-- While BUSY = 1 a write moves STICKY, OVERRUN and the port's answer, and nothing else. -/
theorem hostWrite_busy {s : State} (hb : s.busy = true) (off : Offset) (v : Word32) :
    ∃ st ov a, hostWrite off v s = { s with sticky := st, overrun := ov, resp := some a } := by
  obtain ⟨-, h⟩ | ⟨-, -, -, h⟩ | ⟨-, hl, h⟩ := hostWrite_cases off v s
  · exact ⟨_, _, _, h⟩
  · exact ⟨_, _, _, h⟩
  · rw [h, writeLoc_of_not_storing (hl hb)]
    split
    · exact ⟨_, _, _, rfl⟩
    · exact ⟨_, _, _, rfl⟩

/-- Settles O43: a read leaves the block, and a write while BUSY = 1 all of it but STICKY and OVERRUN. -/
theorem pendingCommandStable : Obligations.PendingCommandStable := by
  intro s c e rest hp hreset h hserved
  obtain ⟨off, op, rfl⟩ := eq_of_served hserved
  cases op with
  | read =>
    obtain ⟨hdata, hflags, hcmd, hpend, herr, -⟩ := hostRead_sameBlock off rest s
    exact ⟨_, step_read h hreset, hpend.trans hp, hcmd, hdata, hflags, herr⟩
  | write v =>
    have hbusy : s.busy = true := by simp [State.busy, hp]
    obtain ⟨st, ov, a, hw⟩ := hostWrite_busy (s := afterArrival rest s) hbusy off v
    refine ⟨_, step_write h hreset, ?_⟩
    rw [hw]
    exact ⟨hp, rfl, ⟨fun _ => rfl, rfl, fun _ => rfl, rfl⟩, ⟨rfl, rfl⟩, rfl⟩

/-! ### Reserved places -/

theorem locate_eq_id_iff (off : Offset) : locate off = .id ↔ off = 0x00C := by
  constructor
  · intro h
    apply BitVec.eq_of_toNat_eq
    simp only [locate] at h
    split_ifs at h
    assumption
  · rintro rfl
    rfl

/-- A reserved offset is aligned, stores nothing, and is neither STATUS nor ID. -/
theorem reservedOffset_place {off : Offset} (h : ReservedOffset off) :
    misaligned off = false ∧ storing (locate off) = false ∧ locate off ≠ .status ∧ locate off ≠ .id := by
  obtain ⟨ha, hrange⟩ := h
  rw [misaligned_eq_false_iff, ← Bool.not_eq_true, storing_locate_iff, Ne, locate_eq_status_iff, Ne, locate_eq_id_iff,
    ← BitVec.toNat_inj, ← BitVec.toNat_inj]
  have h4 : (0x004 : Offset).toNat = 4 := rfl
  have hC : (0x00C : Offset).toNat = 12 := rfl
  rcases hrange with h | h | h | ⟨i, w, hi, hw, hw', h⟩ | ⟨w, hw, hw', h⟩ <;> omega

/-- A word that lies above the value's width reads 0 (20_memory R55, R57). -/
theorem getWord_of_ge {n k : Nat} (h : n ≤ 32 * k) (v : BitVec n) : getWord v k = 0 := by
  apply BitVec.eq_of_getLsbD_eq
  intro j hj
  rw [getLsbD_getWord v k j hj, BitVec.getLsbD_of_ge v _ (by omega)]
  simp

/-- The places that store nothing, but for STATUS and ID, read 0 (20_memory R59). -/
theorem readLoc_of_not_storing {l : Loc} (h : storing l = false) (hstatus : l ≠ .status) (hid : l ≠ .id) (s : State) :
    readLoc s l = 0 := by
  cases l with
  | cmd => cases h
  | status => exact absurd rfl hstatus
  | tlen => cases h
  | id => exact absurd rfl hid
  | txt k => cases h
  | elem r k =>
    have hk : 5 < k.val := by simpa [storing] using h
    exact getWord_of_ge (by omega) _
  | acc k =>
    have hk : 10 < k.val := by simpa [storing] using h
    exact getWord_of_ge (by omega) _
  | reserved => rfl

/-- Settles O53: `readLoc_of_not_storing` and `writeLoc_of_not_storing`. -/
theorem reservedOffsetsReadZero : Obligations.ReservedOffsetsReadZero := by
  refine ⟨fun s off rest hoff h hreset hp => ?_, fun s off v rest hoff h hreset => ?_⟩
  · obtain ⟨ha, hst, hstatus, hid⟩ := reservedOffset_place hoff
    rw [← readLoc_of_not_storing hst hstatus hid s]
    exact step_read_exact h hreset ha (.inl (busy_eq_false hp))
  · obtain ⟨ha, hst, hstatus, -⟩ := reservedOffset_place hoff
    refine ⟨_, step_write_performed h hreset ha (fun _ => hst), rfl, ?_⟩
    rw [writeLoc_of_not_storing hst, if_neg hstatus]
    exact sameBlock_answered (some .ok) s.draws rest s

end Sys2Proof.Proofs.Accesses
end

section
/-! PROOFS. The windows of the element registers, of W and of the text buffer, word by word (20_memory R54 to R58). -/

namespace Sys2Proof.Proofs.WindowWords

open Sys2Proof.Machine Sys2Proof.Claims Sys2Proof.Proofs.Turns Sys2Proof.Proofs.Window Sys2Proof.Proofs.Registers

/-- While BUSY = 0 a write is performed at its place. -/
theorem step_write_idle {s : State} {off : Offset} {v : Word32} {rest : List Event} {l : Loc}
    (h : HostTurn s (hw off v) rest) (hreset : s.inReset = false) (hp : s.pend = none)
    (hoff : misaligned off = false ∧ locate off = l) :
    step s = .next (respond .ok (writeLoc v (afterArrival rest s) l)) := by
  obtain ⟨ha, rfl⟩ := hoff
  exact step_write_performed h hreset ha (by simp [busy_eq_false hp])

/-- While BUSY = 0 a read answers what is at its place. -/
theorem step_read_place {s : State} {off : Offset} {rest : List Event} {l : Loc} (h : HostTurn s (hr off) rest)
    (hreset : s.inReset = false) (hp : s.pend = none) (hoff : misaligned off = false ∧ locate off = l) :
    ∃ t, step s = .next t ∧ t.resp = some (.data (readLoc s l)) ∧ SameBlock s t := by
  obtain ⟨ha, rfl⟩ := hoff
  exact step_read_exact h hreset ha (.inl (busy_eq_false hp))

/-! ### The places of the windows -/

theorem elemOffset_place (r : RegIx) {w : Nat} (hw : w < 8) :
    misaligned (elemOffset r w) = false ∧ locate (elemOffset r w) = .elem r ⟨w, hw⟩ := by
  have hr : r.val < 16 := r.isLt
  have hn : (elemOffset r w).toNat = 0x400 + 0x20 * r.val + 4 * w := Nat.mod_eq_of_lt (by omega)
  refine ⟨(misaligned_eq_false_iff _).mpr (by omega), ?_⟩
  have hreg : Fin.ofNat 16 (((elemOffset r w).toNat - 0x400) / 32) = r := Fin.ext (by simp; omega)
  have hword : Fin.ofNat 8 (((elemOffset r w).toNat - 0x400) / 4) = ⟨w, hw⟩ := Fin.ext (by simp; omega)
  simp only [locate]
  rw [if_neg (by omega), if_neg (by omega), if_neg (by omega), if_neg (by omega), if_neg (by omega), if_pos (by omega),
    hreg, hword]

theorem accOffset_place {w : Nat} (hw : w < 16) :
    misaligned (accOffset w) = false ∧ locate (accOffset w) = .acc ⟨w, hw⟩ := by
  have hn : (accOffset w).toNat = 0x600 + 4 * w := Nat.mod_eq_of_lt (by omega)
  refine ⟨(misaligned_eq_false_iff _).mpr (by omega), ?_⟩
  have hword : Fin.ofNat 16 (((accOffset w).toNat - 0x600) / 4) = ⟨w, hw⟩ := Fin.ext (by simp; omega)
  simp only [locate]
  rw [if_neg (by omega), if_neg (by omega), if_neg (by omega), if_neg (by omega), if_neg (by omega), if_neg (by omega),
    if_pos (by omega), hword]

theorem txtOffset_place {k : Nat} (hk : k < 64) :
    misaligned (txtOffset k) = false ∧ locate (txtOffset k) = .txt ⟨k, hk⟩ := by
  have hn : (txtOffset k).toNat = 0x100 + 4 * k := Nat.mod_eq_of_lt (by omega)
  refine ⟨(misaligned_eq_false_iff _).mpr (by omega), ?_⟩
  have hword : Fin.ofNat 64 (((txtOffset k).toNat - 0x100) / 4) = ⟨k, hk⟩ := Fin.ext (by simp; omega)
  simp only [locate]
  rw [if_neg (by omega), if_neg (by omega), if_neg (by omega), if_neg (by omega), if_pos (by omega), hword]

/-! ### Elements and W -/

/-- Settles O50: `getLsbD_putWord` and `getLsbD_getWord` at the place of `elemOffset_place`. -/
theorem elementWindowWords : Obligations.ElementWindowWords := by
  refine ⟨fun s r w v rest hw h hreset hp => ?_, fun s r w rest hw h hreset hp => ?_⟩
  · refine ⟨_, step_write_idle h hreset hp (elemOffset_place r hw), rfl, fun b hb => ?_, ?_, hp, rfl, rfl, rfl, rfl⟩
    · rw [readF_respond, writeLoc, readF_writeF_self, getLsbD_putWord _ _ _ _ hb]
      rfl
    · exact ⟨fun q hq => readF_writeF_ne _ hq _, rfl, fun _ => rfl, rfl, ⟨rfl, rfl⟩⟩
  · obtain ⟨t, ht, hresp, hsame⟩ := step_read_place h hreset hp (elemOffset_place r hw)
    exact ⟨t, _, ht, hresp, fun j hj => getLsbD_getWord _ _ j hj, hsame⟩

/-- Settles O51: `getLsbD_putWord` and `getLsbD_getWord` at the place of `accOffset_place`. -/
theorem accumulatorWindowWords : Obligations.AccumulatorWindowWords := by
  refine ⟨fun s w v rest hw h hreset hp => ?_, fun s w rest hw h hreset hp => ?_⟩
  · refine ⟨_, step_write_idle h hreset hp (accOffset_place hw), rfl, fun b hb => ?_, ?_, hp, rfl, rfl, rfl, rfl⟩
    · exact getLsbD_putWord s.w w v b hb
    · exact ⟨fun _ => rfl, fun _ => rfl, rfl, ⟨rfl, rfl⟩⟩
  · obtain ⟨t, ht, hresp, hsame⟩ := step_read_place h hreset hp (accOffset_place hw)
    exact ⟨t, _, ht, hresp, fun j hj => getLsbD_getWord _ _ j hj, hsame⟩

/-! ### Text -/

/-- Byte lane j of a word is its character j (20_memory R54). -/
theorem getElem?_bytesOfWord (v : Word32) {j : Nat} (hj : j < 4) :
    (bytesOfWord v)[j]? = some (v.extractLsb' (8 * j) 8) := by
  interval_cases j <;> rfl

/-- A text word write replaces the four characters 4k to 4k + 3 and no other (20_memory R58). -/
theorem readByte_writeBytes_word (m : Memory) (k q : Nat) (v : Word32) :
    readByte (writeBytes m (4 * k) (bytesOfWord v)) q =
      if q / 4 = k then v.extractLsb' (8 * (q % 4)) 8 else readByte m q := by
  rw [readByte_writeBytes]
  by_cases hq : q / 4 = k
  · have hlane : q - 4 * k = q % 4 := by omega
    rw [if_pos (by omega), if_pos hq, hlane, getElem?_bytesOfWord v (Nat.mod_lt q (by decide)), Option.getD_some]
  · rw [if_neg hq]
    split
    · rw [List.getElem?_eq_none (by rw [length_bytesOfWord]; omega), Option.getD_none]
    · rfl

open BitVec in
/-- The four characters of a packed word (20_memory R54, R58). -/
theorem extractLsb'_wordOfBytes (b0 b1 b2 b3 : Byte) :
    (wordOfBytes b0 b1 b2 b3).extractLsb' 0 8 = b0 ∧ (wordOfBytes b0 b1 b2 b3).extractLsb' 8 8 = b1 ∧
      (wordOfBytes b0 b1 b2 b3).extractLsb' 16 8 = b2 ∧ (wordOfBytes b0 b1 b2 b3).extractLsb' 24 8 = b3 := by
  rw [wordOfBytes]
  refine ⟨?_, ?_, ?_, ?_⟩
  · rw [extractLsb'_append_eq_of_add_le (by decide), extractLsb'_eq_self]
  · rw [extractLsb'_append_eq_of_le (by decide), extractLsb'_append_eq_of_add_le (by decide), extractLsb'_eq_self]
  · rw [extractLsb'_append_eq_of_le (by decide), extractLsb'_append_eq_of_le (by decide),
      extractLsb'_append_eq_of_add_le (by decide), extractLsb'_eq_self]
  · rw [extractLsb'_append_eq_of_le (by decide), extractLsb'_append_eq_of_le (by decide),
      extractLsb'_append_eq_of_le (by decide), extractLsb'_eq_self]

/-- Settles O52: `readByte_writeBytes_word` and `extractLsb'_wordOfBytes` at the place of `txtOffset_place`. -/
theorem textWindowWords : Obligations.TextWindowWords := by
  refine ⟨fun s k v rest hk h hreset hp => ?_, fun s k rest hk h hreset hp => ?_⟩
  · exact ⟨_, step_write_idle h hreset hp (txtOffset_place hk), rfl, fun q => readByte_writeBytes_word s.txt k q v,
      fun _ => rfl, rfl, rfl, ⟨rfl, rfl⟩, hp, rfl, rfl, rfl, rfl⟩
  · obtain ⟨t, ht, hresp, hsame⟩ := step_read_place h hreset hp (txtOffset_place hk)
    obtain ⟨h0, h1, h2, h3⟩ := extractLsb'_wordOfBytes (readByte s.txt (4 * k)) (readByte s.txt (4 * k + 1))
      (readByte s.txt (4 * k + 2)) (readByte s.txt (4 * k + 3))
    refine ⟨t, _, ht, hresp, fun j hj => ?_, hsame⟩
    interval_cases j
    · exact h0
    · exact h1
    · exact h2
    · exact h3

end Sys2Proof.Proofs.WindowWords
end

section
/-! PROOFS. The decoder and the encoder on fields, the (match, mask) rows as conditions on fields, and what an illegal word
does (30_encoding R81 to R88). -/

namespace Sys2Proof.Proofs.Decoder

open Sys2Proof.Machine Sys2Proof.Claims Sys2Proof.Proofs.Turns Sys2Proof.Proofs.Registers

/-! ### The decoder inverts the encoder -/

theorem fieldsOf_injective {c d : Word32} (h : fieldsOf c = fieldsOf d) : c = d := by
  rw [← wordOf_fieldsOf c, h, wordOf_fieldsOf]

theorem decodeFields_fieldsOfInstr {i : Instr} (h : i.WellFormed) : decodeFields (fieldsOfInstr i) = .command i := by
  cases i with
  | wxor rs1 sh => exact if_pos (of_decide_eq_true h)
  | _ => rfl

/-- An arm that checks its unused fields answers only a command with the fields `x`, if the check makes them so. -/
theorem encodes_of_whenUnusedZero {x : Fields} {unusedZero : Bool} {i j : Instr}
    (h : whenUnusedZero unusedZero j = .command i) (hx : unusedZero = true → fieldsOfInstr j = x) (hwf : j.WellFormed) :
    fieldsOfInstr i = x ∧ i.WellFormed := by
  rw [whenUnusedZero] at h
  split at h
  case isTrue hz =>
    cases h
    exact ⟨hx hz, hwf⟩
  case isFalse => cases h

/-- A command is answered only where the fields it does not use are zero, and its operands are the others (R85, R87). -/
theorem encodes_of_decodeFields {x : Fields} {i : Instr} (h : decodeFields x = .command i) :
    fieldsOfInstr i = x ∧ i.WellFormed := by
  obtain ⟨op, rd, rs1, rs2, rsv, imm⟩ := x
  simp only [decodeFields] at h
  split at h
  case h_11 hop =>
    obtain rfl : op = 0x21 := BitVec.eq_of_toNat_eq hop
    split_ifs at h with hz hsh
    cases h
    simp only [Bool.and_eq_true, beq_iff_eq] at hz
    obtain ⟨⟨rfl, rfl⟩, rfl⟩ := hz
    exact ⟨rfl, decide_eq_true hsh⟩
  case h_19 => cases h
  all_goals
    rename_i hop
    refine encodes_of_whenUnusedZero h (fun hz => ?_) rfl
    simp only [Bool.and_eq_true, beq_iff_eq] at hz
    simp only [fieldsOfInstr, hz]
    congr 1
    exact (BitVec.eq_of_toNat_eq hop).symm

theorem decodeFields_eq_command_iff {x : Fields} {i : Instr} :
    decodeFields x = .command i ↔ fieldsOfInstr i = x ∧ i.WellFormed :=
  ⟨encodes_of_decodeFields, fun ⟨hx, hwf⟩ => hx ▸ decodeFields_fieldsOfInstr hwf⟩

theorem decode_eq_command_iff {c : Word32} {i : Instr} :
    decode c = .command i ↔ fieldsOfInstr i = fieldsOf c ∧ i.WellFormed :=
  decodeFields_eq_command_iff

/-- Settles O1: the word's fields are the command's (`fieldsOf_wordOf`), and the decoder inverts them. -/
theorem decodeEncodeAgree : Obligations.DecodeEncodeAgree :=
  fun i hwf => decode_eq_command_iff.mpr ⟨(fieldsOf_wordOf (fieldsOfInstr i)).symm, hwf⟩

/-- Settles O2: the command's fields are the word's, and a word is the word of its fields (`wordOf_fieldsOf`). -/
theorem encodeDecodeAgree : Obligations.EncodeDecodeAgree := by
  intro c i hd
  obtain ⟨hfields, hwf⟩ := decode_eq_command_iff.mp hd
  exact ⟨by rw [encode, hfields, wordOf_fieldsOf], hwf⟩

/-- Settles O4: the decoder runs on the nine words. -/
theorem sampleWordsDecode : Obligations.SampleWordsDecode := by
  unfold Obligations.SampleWordsDecode
  decide

/-! ### The (match, mask) rows, field by field -/

theorem and_eq_iff {c mask pattern : Word32} : c &&& mask = pattern ↔
    (fieldsOf c).op &&& (fieldsOf mask).op = (fieldsOf pattern).op ∧
    (fieldsOf c).rd &&& (fieldsOf mask).rd = (fieldsOf pattern).rd ∧
    (fieldsOf c).rs1 &&& (fieldsOf mask).rs1 = (fieldsOf pattern).rs1 ∧
    (fieldsOf c).rs2 &&& (fieldsOf mask).rs2 = (fieldsOf pattern).rs2 ∧
    (fieldsOf c).rsv &&& (fieldsOf mask).rsv = (fieldsOf pattern).rsv ∧
    (fieldsOf c).imm &&& (fieldsOf mask).imm = (fieldsOf pattern).imm := by
  rw [← Fields.mk.injEq, ← fieldsOf_and]
  exact ⟨congrArg fieldsOf, fieldsOf_injective⟩

/-- A 4-bit field under a mask of ones. -/
@[simp] theorem and_0xF (b : BitVec 4) : b &&& 0xF#4 = b := BitVec.and_allOnes

/-- An 8-bit field under a mask of ones. -/
@[simp] theorem and_0xFF (b : BitVec 8) : b &&& 0xFF#8 = b := BitVec.and_allOnes

@[simp] theorem bitsOf_regOf (b : BitVec 4) : bitsOf (regOf b) = b := rfl

/-- A word that matches a row has the fields of a command of the row's mnemonic, its operands read from the fields the
mask leaves out. -/
theorem exists_command_of_match {c : Word32} {row : Row} (hrow : row ∈ opcodeRows) (h : c &&& row.mask = row.pattern) :
    ∃ i, fieldsOfInstr i = fieldsOf c ∧ mnemonic i = row.mnemonic := by
  rw [and_eq_iff] at h
  generalize fieldsOf c = x at h
  obtain ⟨op, rd, rs1, rs2, rsv, imm⟩ := x
  simp only [opcodeRows, List.mem_cons, List.not_mem_nil, or_false] at hrow
  rcases hrow with rfl | rfl | rfl | rfl | rfl | rfl | rfl | rfl | rfl | rfl | rfl | rfl | rfl | rfl | rfl | rfl | rfl |
      rfl <;> simp [fieldsOf] at h
  · exact ⟨.zero (regOf rd), by simp [fieldsOfInstr, h], rfl⟩
  · exact ⟨.mov (regOf rd) (regOf rs1), by simp [fieldsOfInstr, h], rfl⟩
  · exact ⟨.add (regOf rd) (regOf rs1) (regOf rs2), by simp [fieldsOfInstr, h], rfl⟩
  · exact ⟨.mul (regOf rd) (regOf rs1) (regOf rs2), by simp [fieldsOfInstr, h], rfl⟩
  · exact ⟨.sqr (regOf rd) (regOf rs1), by simp [fieldsOfInstr, h], rfl⟩
  · exact ⟨.pow (regOf rd) (regOf rs1) (regOf rs2), by simp [fieldsOfInstr, h], rfl⟩
  · exact ⟨.inv (regOf rd) (regOf rs1), by simp [fieldsOfInstr, h], rfl⟩
  · exact ⟨.trace (regOf rs1), by simp [fieldsOfInstr, h], rfl⟩
  · exact ⟨.eq (regOf rs1) (regOf rs2), by simp [fieldsOfInstr, h], rfl⟩
  · exact ⟨.wclr, by simp [fieldsOfInstr, h], rfl⟩
  · exact ⟨.wxor (regOf rs1) imm, by simp [fieldsOfInstr, h], rfl⟩
  · exact ⟨.clmul (regOf rs1) (regOf rs2), by simp [fieldsOfInstr, h], rfl⟩
  · exact ⟨.spread (regOf rs1), by simp [fieldsOfInstr, h], rfl⟩
  · exact ⟨.red (regOf rd), by simp [fieldsOfInstr, h], rfl⟩
  · exact ⟨.parseb (regOf rd), by simp [fieldsOfInstr, h], rfl⟩
  · exact ⟨.parseh (regOf rd), by simp [fieldsOfInstr, h], rfl⟩
  · exact ⟨.fmtb (regOf rs1), by simp [fieldsOfInstr, h], rfl⟩
  · exact ⟨.fmth (regOf rs1), by simp [fieldsOfInstr, h], rfl⟩

/-- The fields of a command match the row of its mnemonic: only that disjunct of the table is left. -/
theorem exists_match_of_command {c : Word32} {i : Instr} (h : fieldsOfInstr i = fieldsOf c) :
    ∃ row ∈ opcodeRows, row.mnemonic = mnemonic i ∧ c &&& row.mask = row.pattern := by
  simp only [and_eq_iff, ← h]
  cases i <;> simp [opcodeRows, mnemonic, fieldsOfInstr, fieldsOf]

theorem rowMatches_iff {c : Word32} {row : Row} : rowMatches c row = true ↔
    c &&& row.mask = row.pattern ∧ (row.mnemonic = "WXOR" → (fieldsOf c).imm.toNat ≤ Config.maxShift) := by
  simp [rowMatches, fieldsOf, Decidable.imp_iff_not_or]

/-- A well-formed command meets the condition of its row on IMM8. -/
theorem wellFormed_iff {i : Instr} :
    i.WellFormed ↔ (mnemonic i = "WXOR" → (fieldsOfInstr i).imm.toNat ≤ Config.maxShift) := by
  cases i <;> simp [Instr.WellFormed, Instr.wf, mnemonic, fieldsOfInstr]

/-- The row of a decoded command. -/
theorem exists_row_of_decode {c : Word32} {i : Instr} (hd : decode c = .command i) :
    ∃ row ∈ opcodeRows, row.mnemonic = mnemonic i ∧ rowMatches c row = true := by
  obtain ⟨hfields, hwf⟩ := decode_eq_command_iff.mp hd
  obtain ⟨row, hrow, hname, hmatch⟩ := exists_match_of_command hfields
  exact ⟨row, hrow, hname, rowMatches_iff.mpr ⟨hmatch, hname ▸ hfields ▸ wellFormed_iff.mp hwf⟩⟩

/-- The command of a matched row. -/
theorem exists_decode_of_row {c : Word32} {row : Row} (hrow : row ∈ opcodeRows) (h : rowMatches c row = true) :
    ∃ i, decode c = .command i ∧ mnemonic i = row.mnemonic := by
  obtain ⟨hmatch, himm⟩ := rowMatches_iff.mp h
  obtain ⟨i, hfields, hname⟩ := exists_command_of_match hrow hmatch
  exact ⟨i, decode_eq_command_iff.mpr ⟨hfields, wellFormed_iff.mpr (hname ▸ hfields ▸ himm)⟩, hname⟩

/-! ### The rows are disjoint on OP -/

/-- Every mask covers OP. -/
theorem op_of_match {c : Word32} {row : Row} (hrow : row ∈ opcodeRows) (h : c &&& row.mask = row.pattern) :
    (fieldsOf c).op = (fieldsOf row.pattern).op := by
  have hmask : ∀ row ∈ opcodeRows, (fieldsOf row.mask).op = 0xFF#8 := by decide
  simpa [hmask row hrow] using (and_eq_iff.mp h).1

theorem row_eq_of_op_eq {row row' : Row} (hrow : row ∈ opcodeRows) (hrow' : row' ∈ opcodeRows)
    (h : (fieldsOf row.pattern).op = (fieldsOf row'.pattern).op) : row = row' := by
  have hnodup : (opcodeRows.map fun row => (fieldsOf row.pattern).op).Nodup := by decide
  exact List.inj_on_of_nodup_map hnodup hrow hrow' h

/-- Settles O3: a command and its row have the same fields under the mask, and the rows differ in OP. -/
theorem decoderFollowsOpcodeRows : Obligations.DecoderFollowsOpcodeRows := by
  refine ⟨fun c i hd => ?_, fun c row hrow h => ?_, fun c row hrow row' hrow' h h' => ?_⟩
  · exact ⟨exists_row_of_decode hd, (decode_eq_command_iff.mp hd).1⟩
  · exact exists_decode_of_row hrow h
  · exact row_eq_of_op_eq hrow hrow' ((op_of_match hrow h).symm.trans (op_of_match hrow' h'))

/-! ### Illegal words -/

/-- A decoded word matches a row, so none of the three cases of R86 is left. -/
theorem decode_ne_command_of_illegalWord {c : Word32} (h : IllegalWord c) (i : Instr) : decode c ≠ .command i := by
  intro hd
  obtain ⟨row, hrow, -, hm⟩ := exists_row_of_decode hd
  obtain ⟨hmatch, himm⟩ := rowMatches_iff.mp hm
  have hop := op_of_match hrow hmatch
  obtain hunassigned | ⟨row', hrow', hop', hfield⟩ | ⟨hwxor, hshift⟩ := h
  · have hassigned : ∀ row ∈ opcodeRows, (fieldsOf row.pattern).op ∈ assignedOps := by decide
    exact hunassigned (hop ▸ hassigned row hrow)
  · obtain rfl := row_eq_of_op_eq hrow hrow' (hop.symm.trans hop')
    exact hfield hmatch
  · have hname : ∀ row ∈ opcodeRows, (fieldsOf row.pattern).op = 0x21 → row.mnemonic = "WXOR" := by decide
    exact absurd (himm (hname row hrow (hop.symm.trans hwxor))) (Nat.not_le.mpr hshift)

theorem runWord_of_illegalWord {c : Word32} (h : IllegalWord c) (s : State) :
    runWord c s = .next (raiseCmdError .illegal s) := by
  obtain ⟨i, hd, -⟩ | ⟨why, -, hrun⟩ := runWord_cases c s
  · exact absurd hd (decode_ne_command_of_illegalWord h i)
  · exact hrun

/-- `raise CmdError(code)` in the words of the statements (60_exceptions R212). -/
theorem raised_raiseCmdError (e : CmdError) (s : State) : Raised (errorCode e) s (raiseCmdError e s) :=
  ⟨rfl, rfl, rfl, ⟨fun _ => rfl, rfl, fun _ => rfl, rfl⟩, ⟨rfl, rfl⟩, ⟨rfl, rfl, rfl, rfl, rfl, rfl, rfl⟩⟩

/-- The unassigned opcodes, as R86 lists them. -/
theorem not_mem_assignedOps_iff (op : BitVec 8) : op ∉ assignedOps ↔
    (op.toNat = 0x00 ∨ (0x03 ≤ op.toNat ∧ op.toNat ≤ 0x0F) ∨ (0x17 ≤ op.toNat ∧ op.toNat ≤ 0x1F) ∨
      (0x25 ≤ op.toNat ∧ op.toNat ≤ 0x2F) ∨ 0x34 ≤ op.toNat) := by
  simp only [assignedOps, List.mem_cons, List.not_mem_nil, or_false, ← BitVec.toNat_inj, BitVec.ofNat_eq_ofNat,
    BitVec.toNat_ofNat]
  omega

/-- Settles O5: `runWord_of_illegalWord` on the engine's turn; an accepted write stores the word before it is decoded. -/
theorem illegalWordsRaise : Obligations.IllegalWordsRaise := by
  refine ⟨fun s c hturn hill => ?_, fun c => not_mem_assignedOps_iff _, fun s c rest hturn hreset hidle => ?_⟩
  · exact ⟨_, (step_engineTurn hturn).trans (runWord_of_illegalWord hill s),
      raised_raiseCmdError .illegal s⟩
  · exact ⟨_, step_write_performed hturn hreset rfl (by simp [busy_eq_false hidle]), rfl⟩

end Sys2Proof.Proofs.Decoder
end

section
/-! PROOFS. One command of the opcode map: the words its row decodes, and what a command that completes leaves as before
(30_encoding R85, R86, 60_exceptions R213). -/

namespace Sys2Proof.Proofs.Commands

open Sys2Proof.Machine Sys2Proof.Claims Sys2Proof.Proofs.Endings Sys2Proof.Proofs.Decoder

/-- A row without a check on IMM8 decides its opcode: `mk` reads a command of the row's mnemonic off its fields, and no
other row has the opcode. -/
theorem decodesBy_of_row {row : Row} {mk : Fields → Instr} (hrow : row ∈ opcodeRows) (hname : row.mnemonic ≠ "WXOR")
    (hmk : ∀ i, mnemonic i = row.mnemonic → mk (fieldsOfInstr i) = i) :
    DecodesBy (fieldsOf row.pattern).op row.pattern row.mask mk := by
  refine fun c hop => ⟨fun hmatch => ?_, fun hmismatch => ?_⟩
  · obtain ⟨i, hd, hi⟩ := exists_decode_of_row hrow (rowMatches_iff.mpr ⟨hmatch, fun h => absurd h hname⟩)
    rw [hd, ← (decode_eq_command_iff.mp hd).1, hmk i hi]
  · cases hd : decode c with
    | illegal why => exact ⟨why, rfl⟩
    | command i =>
      obtain ⟨row', hrow', -, hm⟩ := exists_row_of_decode hd
      have hmatch := (rowMatches_iff.mp hm).1
      obtain rfl := row_eq_of_op_eq hrow hrow' (hop.symm.trans (op_of_match hrow' hmatch))
      exact absurd hmatch hmismatch

/-- A command that ends without an error has completed. -/
theorem succeeded_of_ending {s t : State} (h : Ending s t) (herr : t.err = 0) : Succeeded s t where
  err := herr
  busy := h.busy
  sticky := Bool.eq_iff_iff.mpr (by simpa [herr] using ending_sticky_iff h)
  rest := ending_sameRest h

theorem elementOnly_complete_writeF (rd : RegIx) (v : Element) (s : State) :
    ElementOnly rd s (complete (writeF rd v s)) where
  others _ h := readF_writeF_ne s h v
  w := rfl
  txt _ := rfl
  len := rfl
  flags := ⟨rfl, rfl⟩

/-- A command that completes after the write of one register gives it the value and leaves the rest. -/
theorem completes_of_writeF {i : Instr} {s : State} {rd : RegIx} {v : Element}
    (h : exec i s = .next (complete (writeF rd v s))) :
    ∃ t, exec i s = .next t ∧ readF t rd = v ∧ ElementOnly rd s t ∧ Succeeded s t :=
  ⟨_, h, readF_writeF_self s rd v, elementOnly_complete_writeF rd v s, succeeded_of_ending (.element rd v) rfl⟩

end Sys2Proof.Proofs.Commands
end

section
/-! PROOFS. ZERO and MOV (40_construction R100, R101). -/

namespace Sys2Proof.Proofs.Construct

open Sys2Proof.Machine Sys2Proof.Claims Sys2Proof.Proofs.Commands

theorem decodesBy_zero : DecodesBy 0x01 0x01000000 0xFF0FFFFF (fun x => .zero (regOf x.rd)) := by
  refine decodesBy_of_row (row := ⟨"ZERO", 0x01000000, 0xFF0FFFFF⟩) (by decide) (by decide) fun i hi => ?_
  cases i with
  | zero rd => rfl
  | _ => simp [mnemonic] at hi

theorem decodesBy_mov :
    DecodesBy 0x02 0x02000000 0xFF00FFFF (fun x => .mov (regOf x.rd) (regOf x.rs1)) := by
  refine decodesBy_of_row (row := ⟨"MOV", 0x02000000, 0xFF00FFFF⟩) (by decide) (by decide) fun i hi => ?_
  cases i with
  | mov rd rs1 => rfl
  | _ => simp [mnemonic] at hi

theorem exec_zero (rd : RegIx) (s : State) : exec (.zero rd) s = .next (complete (writeF rd 0 s)) := rfl

theorem exec_mov (rd rs1 : RegIx) (s : State) :
    exec (.mov rd rs1) s = .next (complete (writeF rd (readF s rs1) s)) := rfl

/-- Settles O6: the row of ZERO, and the end of a command that writes one register. -/
theorem zeroClearsElement : Obligations.ZeroClearsElement :=
  ⟨decodesBy_zero, fun rd s => completes_of_writeF (exec_zero rd s)⟩

/-- Settles O7: the row of MOV, and the source is read before the destination is written, so RD may be RS1. -/
theorem movCopiesElement : Obligations.MovCopiesElement :=
  ⟨decodesBy_mov, fun rd rs1 s => completes_of_writeF (exec_mov rd rs1 s)⟩

end Sys2Proof.Proofs.Construct
end

section
/-! PROOFS. ADD (41_addition R110). -/

namespace Sys2Proof.Proofs.Addition

open Sys2Proof.Machine Sys2Proof.Claims Sys2Proof.Proofs.Commands

theorem decodesBy_add :
    DecodesBy 0x10 0x10000000 0xFF000FFF (fun x => .add (regOf x.rd) (regOf x.rs1) (regOf x.rs2)) := by
  refine decodesBy_of_row (row := ⟨"ADD", 0x10000000, 0xFF000FFF⟩) (by decide) (by decide) fun i hi => ?_
  cases i with
  | add rd rs1 rs2 => rfl
  | _ => simp [mnemonic] at hi

theorem exec_add (rd rs1 rs2 : RegIx) (s : State) :
    exec (.add rd rs1 rs2) s = .next (complete (writeF rd (readF s rs1 ^^^ readF s rs2) s)) := rfl

/-- Settles O8: the row of ADD, and both sources are read before the destination is written, so RD may be RS1 or RS2;
the XOR of two values is the XOR of their bits. -/
theorem addXorsElements : Obligations.AddXorsElements := by
  refine ⟨decodesBy_add, fun rd rs1 rs2 s => ?_⟩
  obtain ⟨t, ht, hvalue, hframe, hdone⟩ := completes_of_writeF (exec_add rd rs1 rs2 s)
  exact ⟨t, ht, fun k => by rw [hvalue, BitVec.getLsbD_xor], hframe, hdone⟩

end Sys2Proof.Proofs.Addition
end

section
/-! PROOFS. The reduction engine: the loop keeps the residue class modulo f and clears every bit from 173 up, so it
answers the remainder; MUL is the product of remainders (00_scope R2, R16, 42_multiply_reduce R125, R126). -/

namespace Sys2Proof.Proofs.Reduction

open Polynomial
open Sys2Proof.Machine Sys2Proof.Claims Sys2Proof.Proofs.Product

/-! ### f, and the multiples of f that the loop adds -/

theorem fPoly_monic : fPoly.Monic := by
  unfold fPoly
  monicity!

theorem degree_fPoly : fPoly.degree = (173 : ℕ) := by
  unfold fPoly
  compute_degree!

/-- The hardwired pattern is f (00_scope R3). -/
theorem toPoly_poly : toPoly Config.poly = fPoly := by
  have hbits : Config.poly =
      ((1 : BitVec 174) <<< 173) ^^^ ((1 : BitVec 174) <<< 10) ^^^ ((1 : BitVec 174) <<< 2) ^^^
        ((1 : BitVec 174) <<< 1) ^^^ ((1 : BitVec 174) <<< 0) := by decide
  unfold fPoly
  rw [hbits]
  simp (disch := omega) only [toPoly_xor, toPoly_one_shiftLeft, pow_one, pow_zero]

theorem toPoly_polyShifted {n : Nat} (hn : n < 172) : toPoly (polyShifted n) = X ^ n * fPoly := by
  rw [polyShifted, toPoly_setWidth_shiftLeft _ _ (by omega), toPoly_poly, mul_comm]

/-! ### Width and degree -/

theorem degree_toPoly_lt {n : Nat} (v : BitVec n) : (toPoly v).degree < n := by
  rw [degree_lt_iff_coeff_zero]
  intro k hk
  simp [coeff_toPoly, BitVec.getLsbD_of_ge v k hk]

theorem toPoly_setWidth {m n : Nat} (v : BitVec m) (h : m ≤ n) : toPoly (v.setWidth n) = toPoly v := by
  simpa using toPoly_setWidth_shiftLeft v 0 h

/-- An element is its own remainder. -/
theorem toPoly_modByMonic (a : Element) : toPoly a %ₘ fPoly = toPoly a :=
  (modByMonic_eq_self_iff fPoly_monic).mpr (by rw [degree_fPoly]; exact degree_toPoly_lt a)

/-- Congruent elements are equal. -/
theorem eq_of_modByMonic_eq {a b : Element} (h : toPoly a %ₘ fPoly = toPoly b %ₘ fPoly) : a = b :=
  toPoly_injective (by rwa [toPoly_modByMonic, toPoly_modByMonic] at h)

/-! ### The loop -/

/-- Every iteration adds 0 or a multiple of f. -/
theorem toPoly_reduceLoop_modByMonic (n : Nat) (hn : n ≤ 172) (p : Product) :
    toPoly (reduceLoop n p) %ₘ fPoly = toPoly p %ₘ fPoly := by
  induction n generalizing p with
  | zero => rfl
  | succ n ih =>
    rw [reduceLoop_succ, ih (by omega), toPoly_xor, add_modByMonic, add_eq_left]
    split
    · rw [toPoly_polyShifted hn, mul_self_modByMonic fPoly_monic]
    · rw [BitVec.ofNat_eq_ofNat, toPoly_zero, zero_modByMonic]

/-- The iteration for bit 173 + n clears it and toggles no bit above it. -/
theorem getLsbD_reduceStep {n : Nat} (hn : n < 172) {p : Product} (hp : ∀ j, 173 + (n + 1) ≤ j → p.getLsbD j = false)
    {j : Nat} (hj : 173 + n ≤ j) :
    (p ^^^ (if p.getLsbD (173 + n) then polyShifted n else 0)).getLsbD j = false := by
  rw [BitVec.getLsbD_xor]
  obtain rfl | hlt := Nat.eq_or_lt_of_le hj
  · by_cases htop : p.getLsbD (173 + n)
    · have hpoly : (polyShifted n).getLsbD (173 + n) = true := by simp [getLsbD_polyShifted n _ hn, Nat.add_comm]
      rw [if_pos htop, htop, hpoly, Bool.xor_self]
    · simp [htop]
  · have hpoly : (polyShifted n).getLsbD j = false := by
      rw [getLsbD_polyShifted n j hn, decide_eq_false_iff_not]
      omega
    rw [hp j hlt]
    split <;> simp [hpoly]

/-- From a p without bits from 173 + n up, the loop leaves none from 173 up. -/
theorem getLsbD_reduceLoop (n : Nat) (hn : n ≤ 172) (p : Product) (hp : ∀ j, 173 + n ≤ j → p.getLsbD j = false)
    {j : Nat} (hj : 173 ≤ j) : (reduceLoop n p).getLsbD j = false := by
  induction n generalizing p with
  | zero => exact hp j hj
  | succ n ih =>
    rw [reduceLoop_succ]
    exact ih (by omega) _ fun k hk => getLsbD_reduceStep hn hp hk

/-! ### The remainder -/

/-- Bits 344 to 173 are zero after the pass (42_multiply_reduce R124). -/
theorem reduceInPlace_eq_setWidth (p : Product) : reduceInPlace p = (reduce p).setWidth 345 := by
  apply BitVec.eq_of_getLsbD_eq
  intro j hj
  by_cases hlow : j < 173
  · simp [reduce, hj, hlow]
  · rw [BitVec.getLsbD_setWidth, BitVec.getLsbD_of_ge (reduce p) j (Nat.le_of_not_lt hlow), Bool.and_false]
    exact getLsbD_reduceLoop 172 le_rfl p (fun k hk => BitVec.getLsbD_of_ge p k hk) (Nat.le_of_not_lt hlow)

theorem toPoly_reduce (p : Product) : toPoly (reduce p) = toPoly p %ₘ fPoly :=
  calc toPoly (reduce p) = toPoly (reduce p) %ₘ fPoly := (toPoly_modByMonic _).symm
    _ = toPoly (reduceInPlace p) %ₘ fPoly := by rw [reduceInPlace_eq_setWidth, toPoly_setWidth _ (by omega)]
    _ = toPoly p %ₘ fPoly := toPoly_reduceLoop_modByMonic 172 le_rfl p

theorem eq_reduce_of_dvd (p : Product) (r : Element) (h : fPoly ∣ toPoly p - toPoly r) : r = reduce p := by
  apply eq_of_modByMonic_eq
  obtain ⟨q, hq⟩ := h
  rw [toPoly_modByMonic (reduce p), toPoly_reduce, sub_eq_iff_eq_add.mp hq, add_modByMonic,
    self_mul_modByMonic fPoly_monic, zero_add]

theorem reduce_xor (p q : Product) : reduce (p ^^^ q) = reduce p ^^^ reduce q :=
  toPoly_injective (by simp only [toPoly_reduce, toPoly_xor, add_modByMonic])

/-- Settles O25: the loop's invariants give the remainder (`toPoly_reduce`), an element is its own remainder, and taking
remainders is additive. -/
theorem reduceIsRemainder : Obligations.ReduceIsRemainder := ⟨toPoly_reduce, eq_reduce_of_dvd, reduce_xor⟩

/-! ### The laws of the reduced product -/

theorem toPoly_mulred (a b : Element) : toPoly (mulred a b) = (toPoly a * toPoly b) %ₘ fPoly := by
  rw [mulred, toPoly_reduce, toPoly_clmul]

theorem mulred_comm (a b : Element) : mulred a b = mulred b a :=
  toPoly_injective (by rw [toPoly_mulred, toPoly_mulred, mul_comm])

/-- Reducing in between does not change the remainder of a product of three. -/
theorem toPoly_mulred_mulred (a b c : Element) :
    toPoly (mulred (mulred a b) c) = (toPoly a * toPoly b * toPoly c) %ₘ fPoly := by
  rw [toPoly_mulred, toPoly_mulred, mul_modByMonic (toPoly a * toPoly b), toPoly_modByMonic c]

theorem mulred_assoc (a b c : Element) : mulred (mulred a b) c = mulred a (mulred b c) := by
  apply toPoly_injective
  rw [mulred_comm a (mulred b c), toPoly_mulred_mulred, toPoly_mulred_mulred, mul_assoc, mul_comm (toPoly a)]

theorem xor_mulred (a b c : Element) : mulred (a ^^^ b) c = mulred a c ^^^ mulred b c :=
  toPoly_injective (by simp only [toPoly_mulred, toPoly_xor, add_mul, add_modByMonic])

theorem toPoly_one : toPoly Config.one = 1 :=
  (toPoly_one_shiftLeft (n := 173) 0 (by omega)).trans (pow_zero X)

theorem one_mulred (a : Element) : mulred Config.one a = a :=
  toPoly_injective (by rw [toPoly_mulred, toPoly_one, one_mul, toPoly_modByMonic])

end Sys2Proof.Proofs.Reduction
end

section
/-! PROOFS. MUL, WCLR, WXOR, CLMUL and RED (42_multiply_reduce R120 to R124, R126). -/

namespace Sys2Proof.Proofs.Multiply

open Sys2Proof.Machine Sys2Proof.Claims Sys2Proof.Proofs.Decoder Sys2Proof.Proofs.Commands Sys2Proof.Proofs.Reduction

/-! ### What the words decode to -/

theorem decodesBy_mul :
    DecodesBy 0x11 0x11000000 0xFF000FFF (fun x => .mul (regOf x.rd) (regOf x.rs1) (regOf x.rs2)) := by
  refine decodesBy_of_row (row := ⟨"MUL", 0x11000000, 0xFF000FFF⟩) (by decide) (by decide) fun i hi => ?_
  cases i with
  | mul rd rs1 rs2 => rfl
  | _ => simp [mnemonic] at hi

theorem decodesBy_wclr : DecodesBy 0x20 0x20000000 0xFFFFFFFF (fun _ => .wclr) := by
  refine decodesBy_of_row (row := ⟨"WCLR", 0x20000000, 0xFFFFFFFF⟩) (by decide) (by decide) fun i hi => ?_
  cases i with
  | wclr => rfl
  | _ => simp [mnemonic] at hi

theorem decodesBy_clmul :
    DecodesBy 0x22 0x22000000 0xFFF00FFF (fun x => .clmul (regOf x.rs1) (regOf x.rs2)) := by
  refine decodesBy_of_row (row := ⟨"CLMUL", 0x22000000, 0xFFF00FFF⟩) (by decide) (by decide) fun i hi => ?_
  cases i with
  | clmul rs1 rs2 => rfl
  | _ => simp [mnemonic] at hi

theorem decodesBy_red : DecodesBy 0x24 0x24000000 0xFF0FFFFF (fun x => .red (regOf x.rd)) := by
  refine decodesBy_of_row (row := ⟨"RED", 0x24000000, 0xFF0FFFFF⟩) (by decide) (by decide) fun i hi => ?_
  cases i with
  | red rd => rfl
  | _ => simp [mnemonic] at hi

theorem wxor_row_mem : (⟨"WXOR", 0x21000000, 0xFFF0FF00⟩ : Row) ∈ opcodeRows := by decide

/-- WXOR's row is the one with a check on IMM8 (30_encoding R85). -/
theorem decode_wxor {c : Word32} (hmatch : c &&& 0xFFF0FF00 = 0x21000000) (hsh : (fieldsOf c).imm.toNat ≤ 172) :
    decode c = .command (.wxor (regOf (fieldsOf c).rs1) (fieldsOf c).imm) := by
  obtain ⟨i, hd, hname⟩ := exists_decode_of_row wxor_row_mem (rowMatches_iff.mpr ⟨hmatch, fun _ => hsh⟩)
  cases i with
  | wxor rs1 sh =>
    rw [hd, ← (decode_eq_command_iff.mp hd).1]
    rfl
  | _ => simp [mnemonic] at hname

theorem decode_illegal_of_illegalWord {c : Word32} (h : IllegalWord c) : ∃ why, decode c = .illegal why := by
  cases hd : decode c with
  | command i => exact absurd hd (decode_ne_command_of_illegalWord h i)
  | illegal why => exact ⟨why, rfl⟩

theorem illegalWord_of_wxor {c : Word32} (hop : (fieldsOf c).op = 0x21)
    (h : c &&& 0xFFF0FF00 ≠ 0x21000000 ∨ 172 < (fieldsOf c).imm.toNat) : IllegalWord c := by
  obtain hfield | hsh := h
  · exact .inr (.inl ⟨_, wxor_row_mem, hop, hfield⟩)
  · exact .inr (.inr ⟨hop, hsh⟩)

/-! ### What the commands do -/

theorem exec_mul (rd rs1 rs2 : RegIx) (s : State) :
    exec (.mul rd rs1 rs2) s = .next (complete (writeF rd (mulred (readF s rs1) (readF s rs2)) s)) := rfl

theorem exec_wclr (s : State) : exec .wclr s = .next (complete (writeW 0 s)) := rfl

theorem exec_wxor_legal (rs1 : RegIx) {sh : BitVec 8} (s : State) (h : sh.toNat ≤ 172) :
    exec (.wxor rs1 sh) s = .next (complete (writeW (xorShifted s.w (readF s rs1) sh.toNat) s)) :=
  congrArg Host.Outcome.next (if_pos h)

theorem exec_wxor_illegal (rs1 : RegIx) {sh : BitVec 8} (s : State) (h : 172 < sh.toNat) :
    exec (.wxor rs1 sh) s = .next (raiseCmdError .illegal s) :=
  congrArg Host.Outcome.next (if_neg (Nat.not_le.mpr h))

theorem exec_clmul (rs1 rs2 : RegIx) (s : State) :
    exec (.clmul rs1 rs2) s = .next (complete (writeW (clmul (readF s rs1) (readF s rs2)) s)) := rfl

theorem exec_red (rd : RegIx) (s : State) :
    exec (.red rd) s = .next (complete (writeW ((reduce s.w).setWidth 345) (writeF rd (reduce s.w) s))) :=
  reduceInPlace_eq_setWidth s.w ▸ rfl

theorem accumulatorOnly_complete_writeW (p : Product) (s : State) : AccumulatorOnly s (complete (writeW p s)) where
  f _ := rfl
  txt _ := rfl
  len := rfl
  flags := ⟨rfl, rfl⟩

/-- A command that completes after a write of W gives it the value and leaves the rest. -/
theorem completes_of_writeW {i : Instr} {s : State} {p : Product} (h : exec i s = .next (complete (writeW p s))) :
    ∃ t, exec i s = .next t ∧ t.w = p ∧ AccumulatorOnly s t ∧ Succeeded s t :=
  ⟨_, h, rfl, accumulatorOnly_complete_writeW p s, succeeded_of_ending (.accumulator p) rfl⟩

/-- RED's end, for any value: one register gets it, W gets its zero extension, the rest stays. -/
theorem completes_of_writeBoth {i : Instr} {s : State} {rd : RegIx} {v : Element}
    (h : exec i s = .next (complete (writeW (v.setWidth 345) (writeF rd v s)))) :
    ∃ t, exec i s = .next t ∧ readF t rd = v ∧ t.w = v.setWidth 345 ∧ (∀ r, r ≠ rd → readF t r = readF s r) ∧
      (∀ k, readByte t.txt k = readByte s.txt k) ∧ t.len = s.len ∧ SameFlags s t ∧ Succeeded s t :=
  ⟨_, h, readF_writeF_self s rd v, rfl, fun _ hr => readF_writeF_ne s hr v, fun _ => rfl, rfl, ⟨rfl, rfl⟩,
    succeeded_of_ending (.both rd v _) rfl⟩

theorem getLsbD_xorShifted (w : Product) (a : Element) (sh : Nat) {j : Nat} (hj : j < 345) :
    (xorShifted w a sh).getLsbD j = (w.getLsbD j ^^ (decide (sh ≤ j) && a.getLsbD (j - sh))) := by
  by_cases hle : sh ≤ j
  · simp [xorShifted, hj, hle, Nat.not_lt.mpr hle]
  · simp [xorShifted, hj, hle, Nat.lt_of_not_le hle]

/-! ### The statements -/

/-- Settles O9: the row of MUL, and the end of a command that writes one register. -/
theorem mulReducesProduct : Obligations.MulReducesProduct :=
  ⟨decodesBy_mul, fun rd rs1 rs2 s => completes_of_writeF (exec_mul rd rs1 rs2 s)⟩

/-- Settles O10: the row of WCLR, and the end of a command that writes W. -/
theorem wclrClearsAccumulator : Obligations.WclrClearsAccumulator :=
  ⟨decodesBy_wclr, fun s => completes_of_writeW (exec_wclr s)⟩

/-- Settles O11: the row of WXOR with its check on the shift, and the two ends of the command by that check. -/
theorem wxorAccumulates : Obligations.WxorAccumulates := by
  refine ⟨fun c hop => ⟨fun ⟨hmatch, hsh⟩ => decode_wxor hmatch hsh, fun h => ?_⟩, fun rs1 sh s h => ?_,
    fun rs1 sh s h => ?_⟩
  · exact decode_illegal_of_illegalWord (illegalWord_of_wxor hop h)
  · obtain ⟨t, ht, hvalue, hframe, hdone⟩ := completes_of_writeW (exec_wxor_legal rs1 s h)
    exact ⟨t, ht, fun j hj => by rw [hvalue, getLsbD_xorShifted _ _ _ hj], hframe, hdone⟩
  · exact ⟨_, exec_wxor_illegal rs1 s h, raised_raiseCmdError .illegal s⟩

/-- Settles O12: the row of CLMUL, and the end of a command that writes W. -/
theorem clmulWritesProduct : Obligations.ClmulWritesProduct :=
  ⟨decodesBy_clmul, fun rs1 rs2 s => completes_of_writeW (exec_clmul rs1 rs2 s)⟩

/-- Settles O13: the row of RED, and the pass leaves W the zero extension of the remainder (`exec_red`). -/
theorem redReducesInPlace : Obligations.RedReducesInPlace :=
  ⟨decodesBy_red, fun rd s => completes_of_writeBoth (exec_red rd s)⟩

/-- CLMUL and then RED (42_multiply_reduce R126): RED reads the product that CLMUL left in W. -/
theorem clmul_red_eq_mul (rd rs1 rs2 : RegIx) (s : State) :
    ∃ t u v, exec (.clmul rs1 rs2) s = .next t ∧ exec (.red rd) t = .next u ∧ exec (.mul rd rs1 rs2) s = .next v ∧
      readF u rd = readF v rd ∧ u.w = (readF v rd).setWidth 345 := by
  obtain ⟨t, ht, htw, -⟩ := completes_of_writeW (exec_clmul rs1 rs2 s)
  obtain ⟨u, hu, hurd, huw, -⟩ := completes_of_writeBoth (exec_red rd t)
  obtain ⟨v, hv, hvrd, -⟩ := completes_of_writeF (exec_mul rd rs1 rs2 s)
  have hvalue : readF v rd = reduce t.w := by rw [hvrd, htw, mulred]
  exact ⟨t, u, v, ht, hu, hv, hurd.trans hvalue.symm, huw.trans (by rw [hvalue])⟩

/-- Settles O27: the laws of products of remainders modulo f, and `clmul_red_eq_mul`. -/
theorem mulIsCommutativeRing : Obligations.MulIsCommutativeRing :=
  ⟨mulred_comm, mulred_assoc, xor_mulred, one_mulred, clmul_red_eq_mul⟩

end Sys2Proof.Proofs.Multiply
end

section
/-! PROOFS. SQR and SPREAD (43_square R140 to R142): the bits of a spread are the coefficients of the operand's polynomial
at x^2, over GF(2) its square. -/

namespace Sys2Proof.Proofs.Square

open Polynomial
open Sys2Proof.Machine Sys2Proof.Claims Sys2Proof.Proofs.Commands Sys2Proof.Proofs.Product Sys2Proof.Proofs.Reduction
  Sys2Proof.Proofs.Multiply

/-! ### What the words decode to, and what the commands do -/

theorem decodesBy_sqr : DecodesBy 0x12 0x12000000 0xFF00FFFF (fun x => .sqr (regOf x.rd) (regOf x.rs1)) := by
  refine decodesBy_of_row (row := ⟨"SQR", 0x12000000, 0xFF00FFFF⟩) (by decide) (by decide) fun i hi => ?_
  cases i with
  | sqr rd rs1 => rfl
  | _ => simp [mnemonic] at hi

theorem decodesBy_spread : DecodesBy 0x23 0x23000000 0xFFF0FFFF (fun x => .spread (regOf x.rs1)) := by
  refine decodesBy_of_row (row := ⟨"SPREAD", 0x23000000, 0xFFF0FFFF⟩) (by decide) (by decide) fun i hi => ?_
  cases i with
  | spread rs1 => rfl
  | _ => simp [mnemonic] at hi

theorem exec_sqr (rd rs1 : RegIx) (s : State) :
    exec (.sqr rd rs1) s = .next (complete (writeF rd (sqr (readF s rs1)) s)) := rfl

theorem exec_spread (rs1 : RegIx) (s : State) :
    exec (.spread rs1) s = .next (complete (writeW (spread (readF s rs1)) s)) := rfl

/-! ### The bits of a spread -/

theorem getLsbD_one_shiftLeft {m : Nat} (hm : m < 345) (j : Nat) :
    ((1 : Product) <<< m).getLsbD j = decide (j = m) := by
  rw [BitVec.ofNat_eq_ofNat, ← BitVec.twoPow_eq, BitVec.getLsbD_twoPow]
  simp [hm, eq_comm]

/-- The loop's iteration n sets position 2n and no other. -/
theorem getLsbD_spreadBits (a : Element) (n : Nat) (hn : n ≤ 173) (j : Nat) :
    (spreadBits a n).getLsbD j = (decide (j < 2 * n) && (decide (2 ∣ j) && a.getLsbD (j / 2))) := by
  induction n with
  | zero => simp
  | succ n ih =>
    have hbit : (if a.getLsbD n then (1 : Product) <<< (2 * n) else 0).getLsbD j =
        (decide (j = 2 * n) && a.getLsbD n) := by
      by_cases ha : a.getLsbD n
      · simpa [ha] using getLsbD_one_shiftLeft (m := 2 * n) (by omega) j
      · simp [ha]
    rw [spreadBits_succ, BitVec.getLsbD_or, ih (by omega), hbit]
    by_cases heq : j = 2 * n
    · simp [heq]
    · by_cases hdvd : 2 ∣ j
      · have hlt : j < 2 * (n + 1) ↔ j < 2 * n := by omega
        simp [heq, hlt]
      · simp [heq, hdvd]

theorem getLsbD_spread (a : Element) (j : Nat) : (spread a).getLsbD j = (decide (2 ∣ j) && a.getLsbD (j / 2)) := by
  rw [spread, getLsbD_spreadBits a 173 le_rfl]
  by_cases hj : j < 2 * 173
  · simp [hj]
  · simp [hj, BitVec.getLsbD_of_ge a (j / 2) (by omega)]

theorem spread_xor (a b : Element) : spread (a ^^^ b) = spread a ^^^ spread b := by
  apply BitVec.eq_of_getLsbD_eq
  intro j _
  simp only [getLsbD_spread, BitVec.getLsbD_xor, Bool.and_xor_distrib_left]

/-! ### Squares -/

/-- Over GF(2) the square of a polynomial is its value at x^2. -/
theorem toPoly_spread (a : Element) : toPoly (spread a) = toPoly a ^ 2 := by
  rw [← ZMod.expand_card]
  ext j
  rw [coeff_expand two_pos, coeff_toPoly, coeff_toPoly, getLsbD_spread]
  by_cases hdvd : 2 ∣ j <;> simp [hdvd]

theorem spread_eq_clmul (a : Element) : spread a = clmul a a :=
  toPoly_injective (by rw [toPoly_spread, toPoly_clmul, sq])

theorem sqr_eq_mulred (a : Element) : sqr a = mulred a a := by
  rw [sqr, mulred, spread_eq_clmul]

theorem sqr_xor (a b : Element) : sqr (a ^^^ b) = sqr a ^^^ sqr b := by
  simp only [sqr, spread_xor, reduce_xor]

/-! ### The statements -/

/-- Settles O14: the row of SQR, and the end of a command that writes one register. -/
theorem sqrReducesSpread : Obligations.SqrReducesSpread :=
  ⟨decodesBy_sqr, fun rd rs1 s => completes_of_writeF (exec_sqr rd rs1 s)⟩

/-- Settles O15: the row of SPREAD, the end of a command that writes W, and the bits of a spread at even and odd
positions. -/
theorem spreadInterleavesZeros : Obligations.SpreadInterleavesZeros := by
  refine ⟨decodesBy_spread, fun rs1 s => ?_⟩
  obtain ⟨t, ht, hvalue, hframe, hdone⟩ := completes_of_writeW (exec_spread rs1 s)
  refine ⟨t, ht, fun k => ⟨?_, ?_⟩, hframe, hdone⟩
  · simp [hvalue, getLsbD_spread]
  · have hodd : ¬ 2 ∣ 2 * k + 1 := by omega
    simp [hvalue, getLsbD_spread, hodd]

/-- Settles O28: a spread is the square in GF(2)[x] (`toPoly_spread`), and spreading and reducing are additive. -/
theorem squareIsSelfProduct : Obligations.SquareIsSelfProduct := ⟨sqr_eq_mulred, spread_eq_clmul, sqr_xor⟩

end Sys2Proof.Proofs.Square
end

section
/-! PROOFS. Squaring in a form the kernel runs fast: the spread in eight masked shifts in place of 173 bits, the reduction
in two folds in place of 172 rows (00_scope R2, R16). Repeated squaring of x is evaluated with it. -/

namespace Sys2Proof.Proofs.FastSquare

open Polynomial
open Sys2Proof.Machine Sys2Proof.Claims Sys2Proof.Proofs.Product Sys2Proof.Proofs.Reduction Sys2Proof.Proofs.Square

/-! ### The spread by masked shifts -/

/-- Ones at the positions j with j % 2k < k, for k a power of two up to 128. -/
def blockMask (k : Nat) : Product := BitVec.ofNat 345 ((2 ^ 512 - 1) / (2 ^ k + 1))

/-- Parts the blocks of 2k bits into blocks of k bits, each followed by k zeros. -/
def partBlocks (p : Product) (k : Nat) : Product := (p ^^^ p <<< k) &&& blockMask k

/-- The spread of an element, from one block of 256 bits by halving the blocks. -/
def interleave (a : Element) : Product := [128, 64, 32, 16, 8, 4, 2, 1].foldl partBlocks (a.setWidth 345)

theorem partBlocks_xor (p q : Product) (k : Nat) : partBlocks (p ^^^ q) k = partBlocks p k ^^^ partBlocks q k := by
  apply BitVec.eq_of_getLsbD_eq
  intro j _
  simp only [partBlocks, BitVec.shiftLeft_xor_distrib, BitVec.getLsbD_and, BitVec.getLsbD_xor,
    ← Bool.and_xor_distrib_right, Bool.xor_assoc, Bool.xor_left_comm]

theorem interleave_xor (a b : Element) : interleave (a ^^^ b) = interleave a ^^^ interleave b := by
  simp only [interleave, List.foldl_cons, List.foldl_nil, BitVec.setWidth_xor, partBlocks_xor]

/-- The low n + 1 bits of an element are its low n bits and bit n. -/
theorem setWidth_succ_eq_xor (a : Element) {n : Nat} (hn : n < 173) :
    (a.setWidth (n + 1)).setWidth 173 =
      (a.setWidth n).setWidth 173 ^^^ (if a.getLsbD n then BitVec.twoPow 173 n else 0) := by
  apply BitVec.eq_of_getLsbD_eq
  intro j hj
  have hbit : (if a.getLsbD n then BitVec.twoPow 173 n else 0).getLsbD j = (decide (j = n) && a.getLsbD n) := by
    by_cases ha : a.getLsbD n
    · rw [if_pos ha, ha, BitVec.getLsbD_twoPow]
      simp [hn, eq_comm]
    · simp [ha]
  rw [BitVec.getLsbD_xor, hbit]
  by_cases heq : j = n
  · simp [heq, hn]
  · have hlt : j < n + 1 ↔ j < n := by omega
    simp [heq, hlt]

theorem additive_zero {F : Element → Product} (hF : ∀ a b, F (a ^^^ b) = F a ^^^ F b) : F 0 = 0 :=
  (hF 0 0).trans BitVec.xor_self

/-- An additive function of an element is known from its values at the powers of x. -/
theorem eq_of_additive {F G : Element → Product} (hF : ∀ a b, F (a ^^^ b) = F a ^^^ F b)
    (hG : ∀ a b, G (a ^^^ b) = G a ^^^ G b) (h : ∀ i < 173, F (BitVec.twoPow 173 i) = G (BitVec.twoPow 173 i))
    (a : Element) : F a = G a := by
  have hzero : F 0 = G 0 := (additive_zero hF).trans (additive_zero hG).symm
  have hlow : ∀ n ≤ 173, F ((a.setWidth n).setWidth 173) = G ((a.setWidth n).setWidth 173) := by
    intro n hn
    induction n with
    | zero => rwa [BitVec.eq_nil (a.setWidth 0)]
    | succ n ih =>
      rw [setWidth_succ_eq_xor a hn, hF, hG, ih (by omega)]
      split
      · rw [h n hn]
      · rw [hzero]
  simpa using hlow 173 le_rfl

theorem spread_twoPow {i : Nat} (hi : i < 173) : spread (BitVec.twoPow 173 i) = BitVec.twoPow 345 (2 * i) := by
  apply BitVec.eq_of_getLsbD_eq
  intro j hj
  rw [getLsbD_spread, BitVec.getLsbD_twoPow, BitVec.getLsbD_twoPow, Bool.eq_iff_iff]
  simp only [Bool.and_eq_true, decide_eq_true_eq]
  omega

theorem interleave_eq_spread (a : Element) : interleave a = spread a := by
  have hpow : ∀ i < 173, interleave (BitVec.twoPow 173 i) = BitVec.twoPow 345 (2 * i) := by decide +kernel
  exact eq_of_additive interleave_xor spread_xor (fun i hi => (hpow i hi).trans (spread_twoPow hi).symm) a

/-! ### The reduction by folds -/

/-- Moves the h bits from 173 up down by x^173 = x^10 + x^2 + x + 1. -/
def fold (h w : Nat) (p : BitVec (173 + h)) : BitVec w :=
  let top := (p.extractLsb' 173 h).setWidth w
  (p.setWidth 173).setWidth w ^^^ top ^^^ top <<< 1 ^^^ top <<< 2 ^^^ top <<< 10

/-- p is its low 173 bits and its h bits from 173 up. -/
theorem toPoly_split {h : Nat} (p : BitVec (173 + h)) :
    toPoly p = toPoly (p.setWidth 173) + toPoly (p.extractLsb' 173 h) * X ^ 173 := by
  have hsplit : p =
      (p.setWidth 173).setWidth (173 + h) ^^^ ((p.extractLsb' 173 h).setWidth (173 + h) <<< 173) := by
    apply BitVec.eq_of_getLsbD_eq
    intro j hj
    by_cases hlow : j < 173
    · simp [hlow, hj]
    · have hadd : 173 + (j - 173) = j := by omega
      have htop : j - 173 < h := by omega
      simp [hlow, hj, hadd, htop]
  refine (congrArg toPoly hsplit).trans ?_
  rw [toPoly_xor, toPoly_setWidth (p.setWidth 173) (by omega), toPoly_setWidth_shiftLeft _ _ (by omega)]

/-- x^173 and x^10 + x^2 + x + 1 differ by f (00_scope R2). -/
theorem add_mul_X_pow_173 (l t : (ZMod 2)[X]) :
    l + t * X ^ 173 = l + t + t * X ^ 1 + t * X ^ 2 + t * X ^ 10 + t * fPoly := by
  have htwo : (2 : (ZMod 2)[X]) = 0 := CharTwo.two_eq_zero
  unfold fPoly
  linear_combination (-(t + t * X + t * X ^ 2 + t * X ^ 10)) * htwo

/-- A fold takes a multiple of f away. -/
theorem toPoly_fold {h w : Nat} (p : BitVec (173 + h)) (hw : 173 ≤ w) (hh : h + 10 ≤ w) :
    toPoly p = toPoly (fold h w p) + toPoly (p.extractLsb' 173 h) * fPoly := by
  have hfold : toPoly (fold h w p) = toPoly (p.setWidth 173) + toPoly (p.extractLsb' 173 h) +
      toPoly (p.extractLsb' 173 h) * X ^ 1 + toPoly (p.extractLsb' 173 h) * X ^ 2 +
      toPoly (p.extractLsb' 173 h) * X ^ 10 := by
    rw [fold, toPoly_xor, toPoly_xor, toPoly_xor, toPoly_xor,
      toPoly_setWidth (p.setWidth 173) hw, toPoly_setWidth (p.extractLsb' 173 h) (by omega),
      toPoly_setWidth_shiftLeft _ 1 (by omega), toPoly_setWidth_shiftLeft _ 2 (by omega),
      toPoly_setWidth_shiftLeft _ 10 hh]
  rw [hfold, ← add_mul_X_pow_173, toPoly_split]

theorem toPoly_fold_modByMonic {h w : Nat} (p : BitVec (173 + h)) (hw : 173 ≤ w) (hh : h + 10 ≤ w) :
    toPoly (fold h w p) %ₘ fPoly = toPoly p %ₘ fPoly := by
  rw [toPoly_fold p hw hh, add_modByMonic, mul_self_modByMonic fPoly_monic, add_zero]

/-- The square of an element, by shifts, masks and folds. -/
def fastSqr (a : Element) : Element := fold 10 173 (fold 172 183 (interleave a))

theorem fastSqr_eq_sqr (a : Element) : fastSqr a = sqr a := by
  apply eq_of_modByMonic_eq
  rw [fastSqr, toPoly_fold_modByMonic _ (by omega) (by omega), toPoly_fold_modByMonic _ (by omega) (by omega),
    interleave_eq_spread, toPoly_modByMonic (sqr a), sqr, toPoly_reduce]

/-! ### Iteration with every value evaluated -/

/-- g iterated; the match makes the kernel evaluate each value before the next iteration. -/
def iterateEvaluated (g : Element → Element) : Nat → Element → Element
  | 0, a => a
  | n + 1, a => match (g a).toNat with
    | 0 => iterateEvaluated g n 0
    | v + 1 => iterateEvaluated g n (BitVec.ofNat 173 (v + 1))

theorem iterateEvaluated_eq (g : Element → Element) (n : Nat) (a : Element) : iterateEvaluated g n a = g^[n] a := by
  induction n generalizing a with
  | zero => rfl
  | succ n ih =>
    have hstep : iterateEvaluated g (n + 1) a = iterateEvaluated g n (BitVec.ofNat 173 (g a).toNat) := by
      rw [iterateEvaluated]
      split <;> rename_i hvalue <;> rw [hvalue]
      rfl
    rw [hstep, ih, BitVec.ofNat_toNat, BitVec.setWidth_eq, Function.iterate_succ_apply]

/-- x^(2^173) = x modulo f: the 173 squarings, evaluated. -/
theorem sqr_iterate_x : sqr^[173] (2 : Element) = 2 := by
  have heval : iterateEvaluated fastSqr 173 2 = 2 := by decide +kernel
  rwa [iterateEvaluated_eq, funext fastSqr_eq_sqr] at heval

end Sys2Proof.Proofs.FastSquare
end

section
/-! PROOFS. The elements as the field GF(2)[x] / (f): f is irreducible, so the products, squares and powers of the
datapath are those of a field with 2^173 elements (00_scope R2, R8). -/

namespace Sys2Proof.Proofs.Field

open Polynomial
open Sys2Proof.Machine Sys2Proof.Claims Sys2Proof.Proofs.Product Sys2Proof.Proofs.Reduction Sys2Proof.Proofs.Square
  Sys2Proof.Proofs.FastSquare

/-! ### Residue classes modulo a polynomial over GF(2) -/

section

variable {f : (ZMod 2)[X]}

theorem modByMonic_eq_iff (hf : f.Monic) {p q : (ZMod 2)[X]} :
    p %ₘ f = q %ₘ f ↔ AdjoinRoot.mk f p = AdjoinRoot.mk f q := by
  rw [AdjoinRoot.mk_eq_mk, ← modByMonic_eq_zero_iff_dvd hf, sub_modByMonic, sub_eq_zero]

theorem mk_modByMonic (hf : f.Monic) (p : (ZMod 2)[X]) : AdjoinRoot.mk f (p %ₘ f) = AdjoinRoot.mk f p :=
  AdjoinRoot.mk_leftInverse hf (AdjoinRoot.mk f p)

theorem dvd_of_root_pow_eq {n : Nat} (h : AdjoinRoot.root f ^ 2 ^ n = AdjoinRoot.root f) :
    f ∣ X ^ Nat.card (ZMod 2) ^ n - X := by
  rw [Nat.card_zmod]
  rwa [← AdjoinRoot.mk_X, ← map_pow, AdjoinRoot.mk_eq_mk] at h

/-- Rabin's test for a prime degree n: the degree of an irreducible factor of x^(2^n) − x divides n, and a factor of
degree 1 would have a root. -/
theorem irreducible_of_dvd (hf : f.Monic) (hprime : f.natDegree.Prime)
    (hdvd : f ∣ X ^ Nat.card (ZMod 2) ^ f.natDegree - X) (hroot : ∀ r, f.eval r ≠ 0) : Irreducible f := by
  obtain ⟨g, hg, hgf⟩ :=
    WfDvdMonoid.exists_irreducible_factor (not_isUnit_of_natDegree_pos f hprime.pos) hf.ne_zero
  have hdeg := hg.natDegree_dvd_of_dvd_X_pow_card_pow_sub_X (hgf.trans hdvd)
  obtain hone | hfull := (Nat.dvd_prime hprime).mp hdeg
  · obtain ⟨r, hr⟩ := exists_root_of_degree_eq_one ((degree_eq_iff_natDegree_eq_of_pos one_pos).mpr hone)
    exact absurd (hr.dvd hgf) (hroot r)
  · exact (associated_of_dvd_of_natDegree_le hgf hf.ne_zero hfull.ge).irreducible hg

theorem natCard_adjoinRoot (hf : f.Monic) : Nat.card (AdjoinRoot f) = 2 ^ f.natDegree := by
  have := hf.finite_adjoinRoot
  rw [Module.natCard_eq_pow_finrank (K := ZMod 2), Nat.card_zmod]
  exact congrArg (2 ^ ·) finrank_quotient_span_eq_natDegree

/-- The multiplicative group of the field of residues has order 2^n − 1. -/
theorem pow_order_eq_one (hf : f.Monic) (hirr : Irreducible f) {x : AdjoinRoot f} (hx : x ≠ 0) :
    x ^ (2 ^ f.natDegree - 1) = 1 := by
  have := Fact.mk hirr
  have := hf.finite_adjoinRoot
  have : Finite (AdjoinRoot f) := Module.finite_of_finite (ZMod 2)
  have := Fintype.ofFinite (AdjoinRoot f)
  rw [← natCard_adjoinRoot hf, Nat.card_eq_fintype_card]
  exact FiniteField.pow_card_sub_one_eq_one x hx

end

/-! ### An element as a residue class modulo f -/

/-- The residue class of an element. -/
noncomputable def toField (a : Element) : AdjoinRoot fPoly := AdjoinRoot.mk fPoly (toPoly a)

theorem toField_injective : Function.Injective toField := by
  intro a b h
  exact eq_of_modByMonic_eq ((modByMonic_eq_iff fPoly_monic).mpr h)

@[simp] theorem toField_zero : toField 0#173 = 0 := by
  rw [toField, toPoly_zero, map_zero]

@[simp] theorem toField_one : toField Config.one = 1 := by
  rw [toField, toPoly_one, map_one]

@[simp] theorem toField_xor (a b : Element) : toField (a ^^^ b) = toField a + toField b := by
  rw [toField, toPoly_xor, map_add, toField, toField]

@[simp] theorem toField_mulred (a b : Element) : toField (mulred a b) = toField a * toField b := by
  rw [toField, toPoly_mulred, mk_modByMonic fPoly_monic, map_mul, toField, toField]

@[simp] theorem toField_sqr (a : Element) : toField (sqr a) = toField a ^ 2 := by
  rw [sqr_eq_mulred, toField_mulred, sq]

@[simp] theorem toField_fieldPow (a : Element) (n : Nat) : toField (fieldPow a n) = toField a ^ n := by
  induction n with
  | zero => rw [fieldPow, toField_one, pow_zero]
  | succ n ih => rw [fieldPow, toField_mulred, ih, pow_succ]

theorem toField_sqr_iterate (a : Element) (n : Nat) : toField (sqr^[n] a) = toField a ^ 2 ^ n := by
  induction n with
  | zero => simp
  | succ n ih => rw [Function.iterate_succ_apply', toField_sqr, ih, ← pow_mul, pow_succ]

theorem toField_ne_zero {a : Element} (h : a ≠ 0) : toField a ≠ 0 :=
  fun h0 => h (toField_injective (h0.trans toField_zero.symm))

/-! ### f is irreducible -/

theorem natDegree_fPoly : fPoly.natDegree = 173 := natDegree_eq_of_degree_eq_some degree_fPoly

theorem toField_x : toField 2 = AdjoinRoot.root fPoly := by
  have hx : toPoly (2 : Element) = X := (toPoly_one_shiftLeft (n := 173) 1 (by omega)).trans (pow_one X)
  rw [toField, hx, AdjoinRoot.mk_X]

theorem root_pow_eq : AdjoinRoot.root fPoly ^ 2 ^ 173 = AdjoinRoot.root fPoly := by
  rw [← toField_x, ← toField_sqr_iterate, sqr_iterate_x]

/-- f has no root in GF(2). -/
theorem eval_fPoly (r : ZMod 2) : fPoly.eval r = 1 := by
  unfold fPoly
  simp only [eval_add, eval_pow, eval_X, eval_one]
  obtain rfl | rfl : r = 0 ∨ r = 1 := by decide +revert
  · simp
  · rw [one_pow, one_pow, one_pow]
    decide

theorem fPoly_irreducible : Irreducible fPoly := by
  refine irreducible_of_dvd fPoly_monic ?_ ?_ fun r => ?_
  · rw [natDegree_fPoly]
    norm_num
  · rw [natDegree_fPoly]
    exact dvd_of_root_pow_eq root_pow_eq
  · rw [eval_fPoly]
    exact one_ne_zero

/-- The multiplicative group has order 2^173 − 1 (44_pow R152). -/
theorem toField_pow_order {a : Element} (h : a ≠ 0) : toField a ^ (2 ^ 173 - 1) = 1 := by
  have horder := pow_order_eq_one fPoly_monic fPoly_irreducible (toField_ne_zero h)
  rwa [natDegree_fPoly] at horder

end Sys2Proof.Proofs.Field
end

section
/-! PROOFS. POW (44_pow R150 to R152): the loop's base runs through the squares, its result through the powers by the low
bits of the exponent. -/

namespace Sys2Proof.Proofs.Pow

open Sys2Proof.Machine Sys2Proof.Claims Sys2Proof.Proofs.Commands Sys2Proof.Proofs.Field

theorem decodesBy_pow :
    DecodesBy 0x13 0x13000000 0xFF000FFF (fun x => .pow (regOf x.rd) (regOf x.rs1) (regOf x.rs2)) := by
  refine decodesBy_of_row (row := ⟨"POW", 0x13000000, 0xFF000FFF⟩) (by decide) (by decide) fun i hi => ?_
  cases i with
  | pow rd rs1 rs2 => rfl
  | _ => simp [mnemonic] at hi

theorem exec_pow (rd rs1 rs2 : RegIx) (s : State) :
    exec (.pow rd rs1 rs2) s = .next (complete (writeF rd (power (readF s rs1) (readF s rs2)) s)) := rfl

/-! ### The loop's invariant -/

theorem toField_powLoop_base (a e : Element) (n : Nat) : toField (powLoop a e n).2 = toField a ^ 2 ^ n := by
  induction n with
  | zero => simp
  | succ n ih => rw [powLoop_succ, toField_sqr, ih, ← pow_mul, pow_succ]

/-- After n iterations the result is the power by the low n bits of the exponent. -/
theorem toField_powLoop_result (a e : Element) (n : Nat) :
    toField (powLoop a e n).1 = toField a ^ (e.toNat % 2 ^ n) := by
  induction n with
  | zero => simp [Nat.mod_one]
  | succ n ih =>
    have hlow : e.toNat % 2 ^ (n + 1) = e.toNat % 2 ^ n + 2 ^ n * (e.getLsbD n).toNat := by
      rw [Nat.mod_pow_succ, BitVec.getLsbD, Nat.toNat_testBit]
    rw [powLoop_succ, hlow]
    cases e.getLsbD n with
    | false => simp [ih]
    | true => simp [ih, toField_powLoop_base, pow_add]

theorem power_eq_fieldPow (a e : Element) : power a e = fieldPow a e.toNat := by
  apply toField_injective
  rw [power, toField_powLoop_result, toField_fieldPow, Nat.mod_eq_of_lt e.isLt]

/-! ### The statements -/

/-- Settles O29: the loop's invariant after all 173 bits (`power_eq_fieldPow`). -/
theorem powIsIntegerPower : Obligations.PowIsIntegerPower := by
  intro rd rs1 rs2 s
  obtain ⟨t, ht, hvalue, -⟩ := completes_of_writeF (exec_pow rd rs1 rs2 s)
  exact ⟨t, ht, hvalue.trans (power_eq_fieldPow _ _)⟩

theorem power_one (a : Element) : power a Config.one = a :=
  toField_injective (by rw [power_eq_fieldPow, toField_fieldPow, show Config.one.toNat = 1 from rfl, pow_one])

theorem power_zero (a : Element) : power a 0 = Config.one := power_eq_fieldPow a 0

theorem power_allOnes {a : Element} (h : a ≠ 0) : power a (BitVec.allOnes 173) = Config.one := by
  apply toField_injective
  rw [power_eq_fieldPow, toField_fieldPow, BitVec.toNat_allOnes, toField_pow_order h, toField_one]

/-- Settles O30: the exponents 1 and 0 as integers, and the order of the multiplicative group (`toField_pow_order`). -/
theorem powSatisfiesFermat : Obligations.PowSatisfiesFermat := ⟨power_one, power_zero, fun _ => power_allOnes⟩

/-- Settles O16: the row of POW, and the end of a command that writes one register. -/
theorem powRunsSquareAndMultiply : Obligations.PowRunsSquareAndMultiply :=
  ⟨decodesBy_pow, fun rd rs1 rs2 s => completes_of_writeF (exec_pow rd rs1 rs2 s)⟩

end Sys2Proof.Proofs.Pow
end

section
/-! PROOFS. TRACE (45_trace R160 to R162): the loop commutes with squaring, and 173 squarings are the identity, so the
accumulator is its own square. -/

namespace Sys2Proof.Proofs.Trace

open Sys2Proof.Machine Sys2Proof.Claims Sys2Proof.Proofs.Commands Sys2Proof.Proofs.Square Sys2Proof.Proofs.Field

theorem decodesBy_trace : DecodesBy 0x15 0x15000000 0xFFF0FFFF (fun x => .trace (regOf x.rs1)) := by
  refine decodesBy_of_row (row := ⟨"TRACE", 0x15000000, 0xFFF0FFFF⟩) (by decide) (by decide) fun i hi => ?_
  cases i with
  | trace rs1 => rfl
  | _ => simp [mnemonic] at hi

/-- Where the accumulator has no bit above bit 0, the check passes (45_trace R160). -/
theorem exec_trace (rs1 : RegIx) {s : State} (h : ∀ k, 1 ≤ k → (traceAcc (readF s rs1)).getLsbD k = false) :
    exec (.trace rs1) s = .next (complete (setTr ((traceAcc (readF s rs1)).getLsbD 0) s)) := by
  have hcheck : (traceAcc (readF s rs1)).extractLsb' 1 172 = 0 := by
    ext k hk
    simp [h (1 + k) (by omega)]
  exact congrArg Host.Outcome.next (if_pos hcheck)

theorem sameData_complete_setTr (b : Bool) (s : State) : SameData s (complete (setTr b s)) where
  f _ := rfl
  w := rfl
  txt _ := rfl
  len := rfl

/-- A TRACE whose check passes sets TR to bit 0 of its accumulator and leaves the rest. -/
theorem completes_of_check (rs1 : RegIx) (s : State)
    (h : ∀ k, 1 ≤ k → (traceAcc (readF s rs1)).getLsbD k = false) :
    ∃ t, exec (.trace rs1) s = .next t ∧ t.trFlag = (traceAcc (readF s rs1)).getLsbD 0 ∧ t.eqFlag = s.eqFlag ∧
      SameData s t ∧ Succeeded s t :=
  ⟨_, exec_trace rs1 h, rfl, rfl, sameData_complete_setTr _ s, succeeded_of_ending (.tr _) rfl⟩

/-! ### The loop -/

theorem traceLoop_xor (a b : Element) (n : Nat) :
    traceLoop (a ^^^ b) n =
      ((traceLoop a n).1 ^^^ (traceLoop b n).1, (traceLoop a n).2 ^^^ (traceLoop b n).2) := by
  induction n with
  | zero => rfl
  | succ n ih =>
    simp only [traceLoop_succ, ih, sqr_xor, Prod.mk.injEq, and_true]
    ac_rfl

theorem traceLoop_sqr (a : Element) (n : Nat) :
    traceLoop (sqr a) n = (sqr (traceLoop a n).1, sqr (traceLoop a n).2) := by
  induction n with
  | zero => rfl
  | succ n ih => rw [traceLoop_succ, ih, traceLoop_succ, sqr_xor]

/-- The loop's t is the iterated square. -/
theorem traceLoop_term (a : Element) (n : Nat) : (traceLoop a n).2 = sqr^[n] a := by
  induction n with
  | zero => rfl
  | succ n ih => rw [traceLoop_succ, ih, Function.iterate_succ_apply']

theorem traceLoop_acc_succ (a : Element) (n : Nat) :
    (traceLoop a (n + 1)).1 = (traceLoop a n).1 ^^^ sqr^[n + 1] a := by
  rw [← traceLoop_term a (n + 1), traceLoop_succ]

/-- Squaring the accumulator shifts its terms by one: the first is lost, the next one comes in. -/
theorem sqr_traceLoop_acc (a : Element) (n : Nat) :
    sqr (traceLoop a n).1 = (traceLoop a n).1 ^^^ a ^^^ sqr^[n + 1] a := by
  induction n with
  | zero => simp
  | succ n ih =>
    rw [traceLoop_acc_succ, sqr_xor, ih, Function.iterate_succ_apply' sqr (n + 1)]
    ac_rfl

/-! ### The accumulator is a bit -/

/-- a^(2^173) = a: 173 squarings are the identity. -/
theorem sqr_iterate_order (a : Element) : sqr^[173] a = a := by
  apply toField_injective
  rw [toField_sqr_iterate]
  obtain rfl | h := eq_or_ne a 0
  · simp
  · rw [← Nat.sub_add_cancel (Nat.one_le_two_pow (n := 173)), pow_succ, toField_pow_order h, one_mul]

theorem sqr_traceAcc (a : Element) : sqr (traceAcc a) = traceAcc a := by
  rw [traceAcc, sqr_traceLoop_acc, sqr_iterate_order, BitVec.xor_assoc, BitVec.xor_self, BitVec.xor_zero]

theorem traceAcc_sqr (a : Element) : traceAcc (sqr a) = traceAcc a := by
  rw [traceAcc, traceLoop_sqr]
  exact sqr_traceAcc a

theorem traceAcc_xor (a b : Element) : traceAcc (a ^^^ b) = traceAcc a ^^^ traceAcc b := by
  rw [traceAcc, traceLoop_xor, traceAcc, traceAcc]

/-- A field has no idempotents but 0 and 1. -/
theorem eq_zero_or_one_of_sqr_eq {a : Element} (h : sqr a = a) : a = 0 ∨ a = Config.one := by
  have := Fact.mk fPoly_irreducible
  have hidem : IsIdempotentElem (toField a) := by rw [IsIdempotentElem, ← sq, ← toField_sqr, h]
  obtain h0 | h1 := IsIdempotentElem.iff_eq_zero_or_one.mp hidem
  · exact .inl (toField_injective (h0.trans toField_zero.symm))
  · exact .inr (toField_injective (h1.trans toField_one.symm))

theorem traceAcc_eq_zero_or_one (a : Element) : traceAcc a = 0 ∨ traceAcc a = Config.one :=
  eq_zero_or_one_of_sqr_eq (sqr_traceAcc a)

theorem getLsbD_traceAcc (a : Element) {k : Nat} (hk : 1 ≤ k) : (traceAcc a).getLsbD k = false := by
  obtain h | h := traceAcc_eq_zero_or_one a
  · simp [h]
  · have hne : k ≠ 0 := by omega
    simp [h, Config.one, hne]

theorem traceAcc_eq_ite (a : Element) : traceAcc a = if (traceAcc a).getLsbD 0 then Config.one else 0 := by
  obtain h | h := traceAcc_eq_zero_or_one a
  · rw [h]
    rfl
  · rw [h]
    rfl

/-! ### The statements -/

/-- Settles O31: additivity and the shift of the terms along the loop; an element that is its own square is 0 or ONE. -/
theorem traceIsLinearBit : Obligations.TraceIsLinearBit := ⟨traceAcc_xor, traceAcc_sqr, traceAcc_eq_zero_or_one⟩

/-- Settles O32: the accumulator is 0 or ONE, so the check passes on every operand. -/
theorem traceCheckNeverFires : Obligations.TraceCheckNeverFires := by
  intro rs1 s
  obtain ⟨t, ht, htr, heq, hdata, hdone⟩ := completes_of_check rs1 s fun k hk => getLsbD_traceAcc _ hk
  exact ⟨t, ht, hdone, hdata, heq, htr ▸ traceAcc_eq_ite _⟩

/-- Settles O17: the row of TRACE, and the end of the command where its check passes. -/
theorem traceSetsFlag : Obligations.TraceSetsFlag := ⟨decodesBy_trace, completes_of_check⟩

end Sys2Proof.Proofs.Trace
end

section
/-! PROOFS. INV (46_inverse R170 to R173): the loop runs through the powers of exponent 2^(n+1) − 1, its last squaring
gives the exponent 2^173 − 2, and the order of the multiplicative group makes that power the inverse. -/

namespace Sys2Proof.Proofs.Inverse

open Sys2Proof.Machine Sys2Proof.Claims Sys2Proof.Proofs.Commands Sys2Proof.Proofs.Decoder Sys2Proof.Proofs.Reduction
  Sys2Proof.Proofs.Field Sys2Proof.Proofs.Pow

theorem decodesBy_inv : DecodesBy 0x14 0x14000000 0xFF00FFFF (fun x => .inv (regOf x.rd) (regOf x.rs1)) := by
  refine decodesBy_of_row (row := ⟨"INV", 0x14000000, 0xFF00FFFF⟩) (by decide) (by decide) fun i hi => ?_
  cases i with
  | inv rd rs1 => rfl
  | _ => simp [mnemonic] at hi

theorem exec_inv_ne_zero (rd : RegIx) {rs1 : RegIx} {s : State} (h : readF s rs1 ≠ 0) :
    exec (.inv rd rs1) s = .next (complete (writeF rd (inverse (readF s rs1)) s)) :=
  congrArg Host.Outcome.next (if_neg h)

theorem exec_inv_zero (rd : RegIx) {rs1 : RegIx} {s : State} (h : readF s rs1 = 0) :
    exec (.inv rd rs1) s = .next (raiseCmdError .domain s) :=
  congrArg Host.Outcome.next (if_pos h)

/-! ### The loop's invariant -/

theorem toField_invLoop_temp (a : Element) (n : Nat) : toField (invLoop a n).2 = toField a ^ 2 ^ n := by
  induction n with
  | zero => simp
  | succ n ih => rw [invLoop_succ, toField_sqr, ih, ← pow_mul, pow_succ]

theorem toField_invLoop_result (a : Element) (n : Nat) :
    toField (invLoop a n).1 = toField a ^ (2 ^ (n + 1) - 1) := by
  induction n with
  | zero => simp
  | succ n ih =>
    have hexp : 2 ^ (n + 1) - 1 + 2 ^ n * 2 = 2 ^ (n + 1 + 1) - 1 := by omega
    rw [invLoop_succ, toField_mulred, toField_sqr, toField_invLoop_temp, ih, ← pow_mul, ← pow_add, hexp]

theorem toField_inverse (a : Element) : toField (inverse a) = toField a ^ (2 ^ 173 - 2) := by
  have hexp : (2 ^ (171 + 1) - 1) * 2 = 2 ^ 173 - 2 := by norm_num
  rw [inverse, toField_sqr, toField_invLoop_result, ← pow_mul, hexp]

/-! ### The value is the inverse -/

theorem mulred_inverse {a : Element} (h : a ≠ 0) : mulred a (inverse a) = Config.one := by
  apply toField_injective
  rw [toField_mulred, toField_inverse, ← pow_succ', toField_one]
  exact toField_pow_order h

theorem ne_zero_of_mulred_eq_one {a b : Element} (h : mulred a b = Config.one) : a ≠ 0 := by
  rintro rfl
  have hzero : mulred 0 b = 0 := toField_injective (by simp)
  exact absurd (hzero.symm.trans h) (by decide)

/-- The inverse is unique, as in any commutative monoid (46_inverse R171). -/
theorem eq_inverse_of_mulred_eq_one {a b : Element} (h : mulred a b = Config.one) : b = inverse a := by
  have ha := ne_zero_of_mulred_eq_one h
  calc b = mulred Config.one b := (one_mulred b).symm
    _ = mulred (mulred (inverse a) a) b := by rw [mulred_comm (inverse a), mulred_inverse ha]
    _ = mulred (mulred a b) (inverse a) := by rw [mulred_assoc, mulred_comm]
    _ = inverse a := by rw [h, one_mulred]

theorem inverse_inverse {a : Element} (h : a ≠ 0) : inverse (inverse a) = a :=
  (eq_inverse_of_mulred_eq_one ((mulred_comm _ _).trans (mulred_inverse h))).symm

theorem inverse_eq_power (a : Element) : inverse a = power a (BitVec.ofNat 173 (2 ^ 173 - 2)) := by
  apply toField_injective
  rw [toField_inverse, power_eq_fieldPow, toField_fieldPow, BitVec.toNat_ofNat, Nat.mod_eq_of_lt (by decide)]

/-! ### The statements -/

/-- Settles O33: the order of the multiplicative group (`mulred_inverse`), and the uniqueness of an inverse, which also
gives the inverse of the inverse. -/
theorem inverseIsUniqueInverse : Obligations.InverseIsUniqueInverse :=
  ⟨fun _ => mulred_inverse, fun _ _ => eq_inverse_of_mulred_eq_one, fun _ => inverse_inverse,
    fun a _ => inverse_eq_power a⟩

/-- Settles O18: the row of INV; a non-zero operand ends as a command that writes one register, zero as the error entry,
which leaves every register. -/
theorem invInvertsOrRaisesDomain : Obligations.InvInvertsOrRaisesDomain :=
  ⟨decodesBy_inv, fun rd _ _ h => completes_of_writeF (exec_inv_ne_zero rd h),
    fun rd _ s h => ⟨_, exec_inv_zero rd h, raised_raiseCmdError .domain s⟩⟩

end Sys2Proof.Proofs.Inverse
end

section
/-! PROOFS. A pending command: on the engine's turn it is the step, and while it waits a served event leaves it pending
with one event less to come; what a host writes meanwhile (70_reset_and_hazards R250 to R252). -/

namespace Sys2Proof.Proofs.Pending

open Sys2Proof.Machine Sys2Proof.Claims Sys2Proof.Proofs.Turns Sys2Proof.Proofs.Window Sys2Proof.Proofs.Accesses
  Sys2Proof.Proofs.Registers Sys2Proof.Proofs.Endings

/-- Settles O40: `step_engineTurn`, with the word decoded. -/
theorem stepRunsDecodedCommand : Obligations.StepRunsDecodedCommand := by
  intro s c i turn hd
  rw [step_engineTurn turn, runWord, hd]

/-! ### Completion -/

/-- A word always runs to an end, legal or not, and leaves BUSY = 0. -/
theorem runWord_completes (c : Word32) (s : State) : ∃ t, runWord c s = .next t ∧ t.busy = false := by
  obtain ⟨i, -, hrun⟩ | ⟨why, -, hrun⟩ := runWord_cases c s
  · obtain ⟨t, ht, hend⟩ := exec_ending i s
    exact ⟨t, hrun.trans ht, hend.busy⟩
  · exact ⟨_, hrun, rfl⟩

/-- A served event leaves the pending word, takes itself off the inbox and one off the count. -/
theorem step_served_pending {s : State} {c : Word32} {e : Event} {rest : List Event} (h : HostTurn s e rest)
    (hserved : served e = true) (hp : s.pend = some c) (hreset : s.inReset = false) :
    ∃ t, step s = .next t ∧ t.pend = some c ∧ t.inReset = false ∧ t.inbox = rest ∧ t.wait = s.wait - 1 := by
  obtain ⟨off, op, rfl⟩ := eq_of_served hserved
  cases op with
  | read =>
    obtain ⟨a, d, hread⟩ := hostRead_cases off (afterArrival rest s)
    exact ⟨_, (step_read h hreset).trans (congrArg _ hread), hp, hreset, rfl, rfl⟩
  | write v =>
    have hbusy : s.busy = true := by simp [State.busy, hp]
    obtain ⟨st, ov, a, hwrite⟩ := hostWrite_busy (s := afterArrival rest s) hbusy off v
    exact ⟨_, (step_write h hreset).trans (congrArg _ hwrite), hp, hreset, rfl, rfl⟩

theorem run_succ {M : Host.Core} {s t : M.State} (h : M.step s = .next t) (n : Nat) :
    Host.Core.run M (n + 1) s = Host.Core.run M n t := by
  rw [Host.Core.run, h]

/-- On its turn the engine completes the pending command in one step. -/
theorem run_one_of_engineTurn {s : State} {c : Word32} (turn : EngineTurn s c) :
    ∃ t, Host.Core.run Sys2Proof.core 1 s = .next t ∧ t.busy = false := by
  obtain ⟨t, ht, hbusy⟩ := runWord_completes c s
  exact ⟨t, run_succ (M := Sys2Proof.core) ((step_engineTurn turn).trans ht) 0, hbusy⟩

/-- Settles O42, by induction on the count: the engine's turn ends the command, an event counts one down. -/
theorem pendingCommandCompletes : Obligations.PendingCommandCompletes := by
  intro s c hp hreset hserved
  induction hw : s.wait generalizing s with
  | zero => exact ⟨1, le_rfl, run_one_of_engineTurn ⟨hp, hreset, .inl hw⟩⟩
  | succ n ih =>
    cases hi : s.inbox with
    | nil => exact ⟨1, by omega, run_one_of_engineTurn ⟨hp, hreset, .inr hi⟩⟩
    | cons e rest =>
      rw [hi, hw, List.take_succ_cons, List.forall_mem_cons] at hserved
      obtain ⟨he, hrest⟩ := hserved
      have turn : HostTurn s e rest := ⟨hi, .inr (.inr (by omega))⟩
      obtain ⟨t, ht, hpt, hrt, hit, hwt⟩ := step_served_pending turn he hp hreset
      have hwt : t.wait = n := by omega
      obtain ⟨m, hm, u, hu, hbusy⟩ := ih t hpt hrt (by rwa [hit, hwt]) hwt
      exact ⟨m + 1, by omega, u, (run_succ (M := Sys2Proof.core) ht m).trans hu, hbusy⟩

/-! ### Writes while BUSY = 1 -/

/-- Settles O48: `hostWrite_dropped` at a storing offset; STATUS stores nothing, so its write is performed. -/
theorem busyWriteIsDropped : Obligations.BusyWriteIsDropped := by
  refine ⟨fun s off v rest h hreset hbusy hst => ?_, fun s v rest h hreset _ => ?_⟩
  · refine ⟨_, step_write h hreset, ?_⟩
    rw [hostWrite_dropped (s := afterArrival rest s) hst hbusy]
    exact ⟨rfl, rfl, ⟨fun _ => rfl, rfl, fun _ => rfl, rfl⟩, ⟨rfl, rfl⟩, rfl, rfl, rfl, rfl, rfl⟩
  · refine ⟨_, step_write_performed h hreset rfl (fun _ => rfl), fun h8 => ?_, fun h9 => ?_, fun h9 => ?_⟩
    · simp [writeLoc_sticky, locate_eq_status_iff, h8]
    · simp [writeLoc_overrun, locate_eq_status_iff, h9]
    · rw [respond_overrun, writeLoc_overrun, h9, Bool.and_false, Bool.not_false, Bool.and_true, afterArrival_overrun]

end Sys2Proof.Proofs.Pending
end

section
/-! PROOFS. How a command that fails ends, and with which codes (60_exceptions R211, R212, R214). -/

namespace Sys2Proof.Proofs.Errors

open Sys2Proof.Machine Sys2Proof.Claims Sys2Proof.Proofs.Decoder

/-- The error entry is the one ending that leaves an ERR other than 0. -/
theorem raised_of_ending {s t : State} (h : Ending s t) (herr : t.err ≠ 0) : Raised t.err s t := by
  cases h with
  | raised e => exact raised_raiseCmdError e s
  | _ => exact absurd rfl herr

/-- Settles O35: every command has an ending (`exec_ending`), and with an error it is the error entry. -/
theorem errorsWriteOnlyStatus : Obligations.ErrorsWriteOnlyStatus := by
  intro i s
  obtain ⟨t, ht, hend⟩ := exec_ending i s
  exact ⟨t, ht, raised_of_ending hend⟩

/-- The errors each command checks for; WXOR's is kept out by its shift, and the commands not named check for none. -/
theorem exec_errorCodes {i : Instr} (hwf : i.WellFormed) (s : State) :
    ∃ t, exec i s = .next t ∧ (t.err = 0 ∨ t.err ∈ errorCodes i) := by
  cases i with
  | inv rd rs1 =>
    refine ⟨_, rfl, ?_⟩
    split
    · exact .inr (by decide : errorCode .domain ∈ [6])
    · exact .inl rfl
  | trace rs1 =>
    refine ⟨_, rfl, ?_⟩
    split
    · exact .inl rfl
    · exact .inr (by decide : errorCode .traceCheck ∈ [8])
  | wxor rs1 sh => exact ⟨_, congrArg Host.Outcome.next (if_pos (of_decide_eq_true hwf)), .inl rfl⟩
  | parseb rd =>
    refine ⟨_, rfl, ?_⟩
    split_ifs
    · exact .inr (by decide : errorCode .txtRange ∈ [1, 2, 5])
    · exact .inr (by decide : errorCode .binLen ∈ [1, 2, 5])
    · exact .inl rfl
    · exact .inr (by decide : errorCode .binChar ∈ [1, 2, 5])
  | parseh rd =>
    refine ⟨_, rfl, ?_⟩
    split_ifs
    · exact .inr (by decide : errorCode .txtRange ∈ [3, 4, 5])
    · exact .inr (by decide : errorCode .hexLen ∈ [3, 4, 5])
    · exact .inl rfl
    · exact .inr (by decide : errorCode .hexChar ∈ [3, 4, 5])
  | _ => exact ⟨_, rfl, .inl rfl⟩

/-- Settles O37: `exec_errorCodes`, and a command has one end. -/
theorem errorCodesByCommand : Obligations.ErrorCodesByCommand := by
  intro i s t hwf ht
  obtain ⟨u, hu, hcode⟩ := exec_errorCodes hwf s
  obtain rfl := Host.Outcome.next.inj (hu.symm.trans ht)
  exact hcode

end Sys2Proof.Proofs.Errors
end

section
/-! PROOFS. EQ (48_equality R200). -/

namespace Sys2Proof.Proofs.Equality

open Sys2Proof.Machine Sys2Proof.Claims Sys2Proof.Proofs.Commands

theorem decodesBy_eq : DecodesBy 0x16 0x16000000 0xFFF00FFF (fun x => .eq (regOf x.rs1) (regOf x.rs2)) := by
  refine decodesBy_of_row (row := ⟨"EQ", 0x16000000, 0xFFF00FFF⟩) (by decide) (by decide) fun i hi => ?_
  cases i with
  | eq rs1 rs2 => rfl
  | _ => simp [mnemonic] at hi

theorem exec_eq (rs1 rs2 : RegIx) (s : State) :
    exec (.eq rs1 rs2) s = .next (complete (setEq (readF s rs1 == readF s rs2) s)) := rfl

/-- Elements are equal if their 173 bits are: the representation is canonical (48_equality R200). -/
theorem beq_iff_getLsbD_eq (a b : Element) : (a == b) = true ↔ ∀ k, k < 173 → a.getLsbD k = b.getLsbD k :=
  beq_iff_eq.trans ⟨fun h _ _ => by rw [h], BitVec.eq_of_getLsbD_eq⟩

/-- Settles O23: the row of EQ, and `beq_iff_getLsbD_eq` for the one flag the command writes. -/
theorem eqComparesElements : Obligations.EqComparesElements :=
  ⟨decodesBy_eq, fun rs1 rs2 s => ⟨_, exec_eq rs1 rs2 s, beq_iff_getLsbD_eq _ _, rfl,
    ⟨fun _ => rfl, rfl, fun _ => rfl, rfl⟩, succeeded_of_ending (.eq _) rfl⟩⟩

end Sys2Proof.Proofs.Equality
end

section
/-! PROOFS. The string operand of the text commands: its characters read from TXT, the end of a formatter, and the binary
encoding (47_text R180 to R186). -/

namespace Sys2Proof.Proofs.BinaryText

open Sys2Proof.Machine Sys2Proof.Claims Sys2Proof.Proofs.Decoder Sys2Proof.Proofs.Commands

/-! ### Strings in TXT -/

/-- A check on every character is a check on TXT[0..LEN−1]. -/
theorem textString_all_iff (s : State) (p : Byte → Bool) :
    (textString s).all p = true ↔ ∀ k, k < s.len.toNat → p (readByte s.txt k) = true := by
  simp [textString, textLength]

/-- A command that completes after writing a string leaves it in TXT[0..LEN−1], and the rest as before. -/
theorem completes_of_writeString {i : Instr} {s : State} {str : List Byte}
    (h : exec i s = .next (complete (writeString str s))) (hlen : str.length ≤ 173) :
    ∃ t, exec i s = .next t ∧ t.len.toNat = str.length ∧ (∀ k (hk : k < str.length), readByte t.txt k = str[k]) ∧
      TextOnly str.length s t ∧ Succeeded s t := by
  have hread : ∀ k, readByte (writeBytes s.txt 0 str) k = str[k]?.getD (readByte s.txt k) := fun k => by
    rw [readByte_writeBytes, if_pos (Nat.zero_le k), Nat.sub_zero]
  refine ⟨_, h, Nat.mod_eq_of_lt (by omega), fun k hk => ?_, ⟨fun _ => rfl, rfl, fun k hk => ?_, ⟨rfl, rfl⟩⟩,
    succeeded_of_ending (.string str hlen) rfl⟩
  · rw [complete_txt, writeString_txt, hread, List.getElem?_eq_getElem hk, Option.getD_some]
  · rw [complete_txt, writeString_txt, hread, List.getElem?_eq_none hk, Option.getD_none]

/-! ### What the words decode to -/

theorem decodesBy_parseb : DecodesBy 0x30 0x30000000 0xFF0FFFFF (fun x => .parseb (regOf x.rd)) := by
  refine decodesBy_of_row (row := ⟨"PARSEB", 0x30000000, 0xFF0FFFFF⟩) (by decide) (by decide) fun i hi => ?_
  cases i with
  | parseb rd => rfl
  | _ => simp [mnemonic] at hi

theorem decodesBy_fmtb : DecodesBy 0x32 0x32000000 0xFFF0FFFF (fun x => .fmtb (regOf x.rs1)) := by
  refine decodesBy_of_row (row := ⟨"FMTB", 0x32000000, 0xFFF0FFFF⟩) (by decide) (by decide) fun i hi => ?_
  cases i with
  | fmtb rs1 => rfl
  | _ => simp [mnemonic] at hi

/-! ### FMTB -/

theorem exec_fmtb (rs1 : RegIx) (s : State) :
    exec (.fmtb rs1) s = .next (complete (writeString (binString (readF s rs1)) s)) := rfl

theorem getElem_binString (a : Element) (k : Nat) (hk : k < (binString a).length) :
    (binString a)[k] = if a.getLsbD (172 - k) then 0x31 else 0x30 := by
  simp [binString, charOne, charZero]

/-- Settles O21: the row of FMTB, and the end of a command that writes a string, character by character. -/
theorem fmtbWritesBinaryString : Obligations.FmtbWritesBinaryString := by
  refine ⟨decodesBy_fmtb, fun rs1 s => ?_⟩
  obtain ⟨t, ht, hlen, hread, hframe, hdone⟩ := completes_of_writeString (exec_fmtb rs1 s) (length_binString _).le
  rw [length_binString] at hlen hframe
  refine ⟨t, ht, hlen, fun k hk => ?_, hframe, hdone⟩
  rw [hread k (by rw [length_binString]; omega), getElem_binString]

/-! ### PARSEB -/

theorem isBinChar_iff (c : Byte) : isBinChar c = true ↔ c = 0x30 ∨ c = 0x31 := by
  simp [isBinChar, charZero, charOne]

/-- Bit j of a binary string's value is its character j from the end; a character in front has its bit above all of
the others. -/
theorem getLsbD_binValue (cs : List Byte) (hlen : cs.length ≤ 173) (j : Nat) :
    (binValue cs).getLsbD j = decide (cs.reverse[j]? = some charOne) := by
  induction cs with
  | nil => simp [binValue]
  | cons c cs ih =>
    have hlen : cs.length < 173 := hlen
    have hbit : (if c = charOne then (1 : Element) <<< cs.length else 0).getLsbD j =
        (decide (j = cs.length) && decide (c = charOne)) := by
      split
      case isTrue hc => simp [hc, hlen, ← BitVec.twoPow_eq, BitVec.getLsbD_twoPow, eq_comm]
      case isFalse hc => simp [hc]
    rw [binValue, BitVec.getLsbD_or, hbit, ih hlen.le, List.reverse_cons]
    rcases Nat.lt_trichotomy j cs.length with hj | rfl | hj
    · rw [List.getElem?_append_left (by simpa using hj), decide_eq_false hj.ne, Bool.false_and, Bool.false_or]
    · simp
    · rw [List.getElem?_eq_none (by simpa using hj.le), List.getElem?_eq_none (by simpa using hj),
        decide_eq_false hj.ne', Bool.false_and, Bool.false_or]

/-- The same with the characters numbered as in TXT: bit n−1−k for character k, and no bit from n up. -/
theorem getLsbD_binValue_textString {s : State} (hlen : s.len.toNat ≤ 173) :
    (∀ k, k < s.len.toNat →
      (binValue (textString s)).getLsbD (s.len.toNat - 1 - k) = decide (readByte s.txt k = 0x31)) ∧
    (∀ j, s.len.toNat ≤ j → (binValue (textString s)).getLsbD j = false) := by
  have hn : (textString s).length = s.len.toNat := length_textString s
  have hbit := getLsbD_binValue (textString s) (hn.trans_le hlen)
  refine ⟨fun k hk => ?_, fun j hj => ?_⟩
  · have hpos : s.len.toNat - 1 - (s.len.toNat - 1 - k) = k := by omega
    rw [hbit, List.getElem?_reverse (by omega), hn, hpos]
    simp [textString, textLength, hk, charOne]
  · rw [hbit, List.getElem?_eq_none (by simpa [hn] using hj)]
    simp

theorem exec_parseb_of_gt_cap (rd : RegIx) {s : State} (h : 256 < s.len.toNat) :
    exec (.parseb rd) s = .next (raiseCmdError .txtRange s) :=
  congrArg Host.Outcome.next (if_pos h)

theorem exec_parseb_of_gt_width (rd : RegIx) {s : State} (h : 173 < s.len.toNat) (hcap : s.len.toNat ≤ 256) :
    exec (.parseb rd) s = .next (raiseCmdError .binLen s) :=
  congrArg Host.Outcome.next ((if_neg (Nat.not_lt.mpr hcap)).trans (if_pos h))

/-- With a length in range the characters decide (47_text R184). -/
theorem exec_parseb_of_le (rd : RegIx) {s : State} (h : s.len.toNat ≤ 173) :
    exec (.parseb rd) s = .next (if (textString s).all isBinChar then complete (writeF rd (binValue (textString s)) s)
      else raiseCmdError .binChar s) :=
  congrArg Host.Outcome.next ((if_neg (Nat.not_lt.mpr (h.trans (by decide)))).trans (if_neg (Nat.not_lt.mpr h)))

theorem textString_all_isBinChar_iff (s : State) : (textString s).all isBinChar = true ↔
    ∀ k, k < s.len.toNat → readByte s.txt k = 0x30 ∨ readByte s.txt k = 0x31 := by
  simp only [textString_all_iff, isBinChar_iff]

/-- Settles O19: the row of PARSEB, its three checks in their order, and the bits of the value. -/
theorem parsebReadsBinaryString : Obligations.ParsebReadsBinaryString := by
  refine ⟨decodesBy_parseb, fun rd s => ⟨fun h => ?_, fun h hcap => ?_, fun h hbad => ?_, fun h hgood => ?_⟩⟩
  · exact ⟨_, exec_parseb_of_gt_cap rd h, raised_raiseCmdError .txtRange s⟩
  · exact ⟨_, exec_parseb_of_gt_width rd h hcap, raised_raiseCmdError .binLen s⟩
  · obtain ⟨k, hk, h0, h1⟩ := hbad
    have hall : ¬ (textString s).all isBinChar = true := fun hall =>
      ((textString_all_isBinChar_iff s).mp hall k hk).elim h0 h1
    exact ⟨_, (exec_parseb_of_le rd h).trans (congrArg _ (if_neg hall)), raised_raiseCmdError .binChar s⟩
  · have hall := (textString_all_isBinChar_iff s).mpr hgood
    obtain ⟨t, ht, hvalue, hframe, hdone⟩ :=
      completes_of_writeF ((exec_parseb_of_le rd h).trans (congrArg _ (if_pos hall)))
    obtain ⟨hlow, hhigh⟩ := getLsbD_binValue_textString h
    exact ⟨t, ht, fun k hk => hvalue ▸ hlow k hk, fun j hj => hvalue ▸ hhigh j hj, hframe, hdone⟩

end Sys2Proof.Proofs.BinaryText
end

section
/-! PROOFS. The hexadecimal encoding (47_text R183, R185, R187). -/

namespace Sys2Proof.Proofs.HexText

open Sys2Proof.Machine Sys2Proof.Claims Sys2Proof.Proofs.Decoder Sys2Proof.Proofs.Commands Sys2Proof.Proofs.BinaryText

/-! ### What the words decode to -/

theorem decodesBy_parseh : DecodesBy 0x31 0x31000000 0xFF0FFFFF (fun x => .parseh (regOf x.rd)) := by
  refine decodesBy_of_row (row := ⟨"PARSEH", 0x31000000, 0xFF0FFFFF⟩) (by decide) (by decide) fun i hi => ?_
  cases i with
  | parseh rd => rfl
  | _ => simp [mnemonic] at hi

theorem decodesBy_fmth : DecodesBy 0x33 0x33000000 0xFFF0FFFF (fun x => .fmth (regOf x.rs1)) := by
  refine decodesBy_of_row (row := ⟨"FMTH", 0x33000000, 0xFFF0FFFF⟩) (by decide) (by decide) fun i hi => ?_
  cases i with
  | fmth rs1 => rfl
  | _ => simp [mnemonic] at hi

/-! ### Hexadecimal digits -/

theorem isHexDigit_iff (c : Byte) : isHexDigit c = true ↔
    (0x30 ≤ c.toNat ∧ c.toNat ≤ 0x39) ∨ (0x41 ≤ c.toNat ∧ c.toNat ≤ 0x46) ∨ (0x61 ≤ c.toNat ∧ c.toNat ≤ 0x66) := by
  simp only [isHexDigit, Bool.or_eq_true, decide_eq_true_eq, or_assoc]

/-- A digit has one value (47_text R183). -/
theorem hexDigit_of_hexChar {c : Byte} {d : Nat} (h : HexChar c d) : hexDigit c = d := by
  unfold hexDigit
  rcases h with ⟨hd, hc⟩ | ⟨hd, hd', hc | hc⟩ <;> rw [hc] <;> split_ifs <;> omega

/-- The model's check for a digit is that the character has a value. -/
theorem isHexDigit_iff_exists (c : Byte) : isHexDigit c = true ↔ ∃ d, HexChar c d := by
  rw [isHexDigit_iff]
  constructor
  · rintro (h | h | h)
    · exact ⟨c.toNat - 0x30, .inl (by omega)⟩
    · exact ⟨c.toNat - 0x41 + 10, .inr (by omega)⟩
    · exact ⟨c.toNat - 0x61 + 10, .inr (by omega)⟩
  · rintro ⟨d, ⟨hd, hc⟩ | ⟨hd, hd', hc | hc⟩⟩ <;> omega

theorem toNat_lowerHex (nib : BitVec 4) :
    (lowerHex nib).toNat = if nib.toNat < 10 then 0x30 + nib.toNat else 0x61 + (nib.toNat - 10) := by
  have hnib := nib.isLt
  unfold lowerHex
  split
  · exact Nat.mod_eq_of_lt (by omega)
  · exact Nat.mod_eq_of_lt (by omega)

/-! ### FMTH -/

theorem exec_fmth (rs1 : RegIx) (s : State) :
    exec (.fmth rs1) s = .next (complete (writeString (hexString (readF s rs1)) s)) := rfl

/-- Nibble m of an element is its base-16 digit m. -/
theorem toNat_nibble (a : Element) (m : Nat) :
    ((a.setWidth 176).extractLsb' (4 * m) 4).toNat = a.toNat / 16 ^ m % 16 := by
  have hwidth : a.toNat < 2 ^ 176 := a.isLt.trans (by decide)
  rw [BitVec.extractLsb'_toNat, BitVec.toNat_setWidth, Nat.mod_eq_of_lt hwidth, Nat.shiftRight_eq_div_pow, pow_mul]
  norm_num

/-- The characters of the minimal hexadecimal string are those of the nibbles, the highest first; zero's single one too. -/
theorem getElem_hexString (a : Element) (k : Nat) (hk : k < (hexString a).length) :
    (hexString a)[k] = lowerHex ((a.setWidth 176).extractLsb' (4 * ((hexString a).length - 1 - k)) 4) := by
  by_cases ha : a = 0
  · subst ha
    obtain rfl : k = 0 := by simpa [hexString] using hk
    rfl
  · have hstr : hexString a = (List.range (hexDigits a)).map fun k =>
        lowerHex ((a.setWidth 176).extractLsb' (4 * (hexDigits a - 1 - k)) 4) := if_neg ha
    simp only [hstr, List.getElem_map, List.getElem_range, List.length_map, List.length_range]

theorem lt_pow_length_hexString (a : Element) : a.toNat < 16 ^ (hexString a).length := by
  rw [length_hexString]
  exact Nat.lt_pow_succ_log_self (by decide) _

/-- No leading zero digit (47_text R187). -/
theorem pow_length_hexString_le {a : Element} (ha : a ≠ 0) : 16 ^ ((hexString a).length - 1) ≤ a.toNat := by
  rw [length_hexString, Nat.add_sub_cancel]
  exact Nat.pow_log_le_self 16 fun h => ha (BitVec.eq_of_toNat_eq h)

/-- FMTH on any element, with d the length of its string. -/
theorem fmth_completes (rs1 : RegIx) (s : State) : ∃ t d, exec (.fmth rs1) s = .next t ∧ t.len.toNat = d ∧
    d = (hexString (readF s rs1)).length ∧
    (∀ k, k < d → ∃ nib, nib = (readF s rs1).toNat / 16 ^ (d - 1 - k) % 16 ∧
      (readByte t.txt k).toNat = if nib < 10 then 0x30 + nib else 0x61 + (nib - 10)) ∧
    TextOnly d s t ∧ Succeeded s t := by
  have hlen := (length_hexString_le (readF s rs1)).trans (by decide : 44 ≤ 173)
  obtain ⟨t, ht, hlen, hread, hframe, hdone⟩ := completes_of_writeString (exec_fmth rs1 s) hlen
  refine ⟨t, _, ht, hlen, rfl, fun k hk => ⟨_, rfl, ?_⟩, hframe, hdone⟩
  rw [hread k hk, getElem_hexString, toNat_lowerHex, toNat_nibble]

/-- Settles O22: the row of FMTH; the string's length is fixed by the element's size, its characters by the digits. -/
theorem fmthWritesMinimalHexString : Obligations.FmthWritesMinimalHexString := by
  refine ⟨decodesBy_fmth, fun rs1 s hzero => ?_, fun rs1 s hne => ?_⟩
  · obtain ⟨t, d, ht, hlen, hd, hchar, hframe, hdone⟩ := fmth_completes rs1 s
    obtain rfl : d = 1 := by simpa [length_hexString, hzero] using hd
    obtain ⟨nib, hnib, hread⟩ := hchar 0 one_pos
    obtain rfl : nib = 0 := by simpa [hzero] using hnib
    exact ⟨t, ht, hlen, BitVec.eq_of_toNat_eq hread, hframe, hdone⟩
  · obtain ⟨t, d, ht, hlen, hd, hchar, hframe, hdone⟩ := fmth_completes rs1 s
    have hpos : 1 ≤ d := by rw [hd, length_hexString]; exact Nat.le_add_left 1 _
    exact ⟨t, d, ht, hlen, hpos, hd ▸ length_hexString_le _, hd ▸ pow_length_hexString_le hne,
      hd ▸ lt_pow_length_hexString _, hchar, hframe, hdone⟩

/-! ### PARSEH -/

/-- The accumulated value is the sum of the digits by their weights. -/
theorem hexValue_map_range (g : Nat → Byte) (n : Nat) :
    hexValue ((List.range n).map g) = ∑ k ∈ Finset.range n, hexDigit (g k) * 16 ^ (n - 1 - k) := by
  induction n with
  | zero => rfl
  | succ n ih =>
    have hstep : hexValue ((List.range (n + 1)).map g) = 16 * hexValue ((List.range n).map g) + hexDigit (g n) := by
      simp [hexValue, List.range_succ]
    have hweight : ∀ k ∈ Finset.range n,
        16 * (hexDigit (g k) * 16 ^ (n - 1 - k)) = hexDigit (g k) * 16 ^ (n + 1 - 1 - k) := fun k hk => by
      have hexp : n + 1 - 1 - k = n - 1 - k + 1 := by have := Finset.mem_range.mp hk; omega
      rw [hexp, pow_succ]
      ring
    rw [hstep, ih, Finset.mul_sum, Finset.sum_congr rfl hweight, Finset.sum_range_succ]
    simp

theorem hexValue_textString {s : State} {d : Nat → Nat} (h : ∀ k, k < s.len.toNat → HexChar (readByte s.txt k) (d k)) :
    hexValue (textString s) = ∑ k ∈ Finset.range s.len.toNat, d k * 16 ^ (s.len.toNat - 1 - k) := by
  rw [textString, textLength, hexValue_map_range]
  exact Finset.sum_congr rfl fun k hk => by rw [hexDigit_of_hexChar (h k (Finset.mem_range.mp hk))]

theorem textString_all_isHexDigit_iff (s : State) : (textString s).all isHexDigit = true ↔
    ∀ k, k < s.len.toNat → ∃ d, HexChar (readByte s.txt k) d := by
  simp only [textString_all_iff, isHexDigit_iff_exists]

theorem exec_parseh_of_gt_cap (rd : RegIx) {s : State} (h : 256 < s.len.toNat) :
    exec (.parseh rd) s = .next (raiseCmdError .txtRange s) :=
  congrArg Host.Outcome.next (if_pos h)

theorem exec_parseh_of_bad_char (rd : RegIx) {s : State} (hcap : s.len.toNat ≤ 256)
    (h : ¬ (textString s).all isHexDigit = true) : exec (.parseh rd) s = .next (raiseCmdError .hexChar s) :=
  congrArg Host.Outcome.next ((if_neg (Nat.not_lt.mpr hcap)).trans (if_neg h))

/-- With the length in range and every character a digit, the value decides (47_text R185). -/
theorem exec_parseh_of_digits (rd : RegIx) {s : State} (hcap : s.len.toNat ≤ 256)
    (h : (textString s).all isHexDigit = true) :
    exec (.parseh rd) s = .next (if hexValue (textString s) ≥ 2 ^ 173 then raiseCmdError .hexLen s
      else complete (writeF rd (BitVec.ofNat 173 (hexValue (textString s))) s)) :=
  congrArg Host.Outcome.next ((if_neg (Nat.not_lt.mpr hcap)).trans (if_pos h))

/-- Settles O20: the row of PARSEH, its three checks in their order, and the value from the digits. -/
theorem parsehReadsHexString : Obligations.ParsehReadsHexString := by
  refine ⟨decodesBy_parseh, fun rd s => ⟨fun h => ?_, fun hcap hbad => ?_, fun d hcap hgood => ?_⟩⟩
  · exact ⟨_, exec_parseh_of_gt_cap rd h, raised_raiseCmdError .txtRange s⟩
  · obtain ⟨k, hk, hno⟩ := hbad
    have hall : ¬ (textString s).all isHexDigit = true := fun hall => by
      obtain ⟨d, hd⟩ := (textString_all_isHexDigit_iff s).mp hall k hk
      exact hno d hd
    exact ⟨_, exec_parseh_of_bad_char rd hcap hall, raised_raiseCmdError .hexChar s⟩
  · have hall := (textString_all_isHexDigit_iff s).mpr fun k hk => ⟨d k, hgood k hk⟩
    have hexec := exec_parseh_of_digits rd hcap hall
    rw [hexValue_textString hgood] at hexec
    refine ⟨fun hbig => ?_, fun hsmall => ?_⟩
    · exact ⟨_, hexec.trans (congrArg _ (if_pos hbig)), raised_raiseCmdError .hexLen s⟩
    · obtain ⟨t, ht, hvalue, hframe, hdone⟩ :=
        completes_of_writeF (hexec.trans (congrArg _ (if_neg (Nat.not_le.mpr hsmall))))
      exact ⟨t, ht, by rw [hvalue]; exact Nat.mod_eq_of_lt hsmall, hframe, hdone⟩

end Sys2Proof.Proofs.HexText
end

section
/-! PROOFS. Parsing what was formatted gives the element back, in both encodings (47_text R188): what the formatter leaves
in TXT meets the premise of the parser's success. -/

namespace Sys2Proof.Proofs.TextRoundTrip

open Sys2Proof.Machine Sys2Proof.Claims Sys2Proof.Proofs.BinaryText Sys2Proof.Proofs.HexText

/-- FMTB's characters are in range for PARSEB, whose bits are then the formatted element's. -/
theorem parseb_fmtb (rs1 rd : RegIx) (s : State) :
    ∃ t u, exec (.fmtb rs1) s = .next t ∧ exec (.parseb rd) t = .next u ∧ readF u rd = readF s rs1 ∧ u.err = 0 := by
  obtain ⟨-, hformat⟩ := fmtbWritesBinaryString
  obtain ⟨-, hparse⟩ := parsebReadsBinaryString
  obtain ⟨t, ht, hlen, hchar, -, -⟩ := hformat rs1 s
  have hgood : ∀ k, k < t.len.toNat → readByte t.txt k = 0x30 ∨ readByte t.txt k = 0x31 := fun k hk => by
    rw [hchar k (by omega)]
    split
    · exact .inr rfl
    · exact .inl rfl
  obtain ⟨-, -, -, hparse⟩ := hparse rd t
  obtain ⟨u, hu, hbit, -, -, hdone⟩ := hparse hlen.le hgood
  refine ⟨t, u, ht, hu, BitVec.eq_of_getLsbD_eq fun j hj => ?_, hdone.err⟩
  have hj' : 172 - (172 - j) = j := by omega
  have hbit := hbit (172 - j) (by omega)
  rw [hlen, hchar (172 - j) (by omega), hj'] at hbit
  rw [hbit]
  cases (readF s rs1).getLsbD j <;> rfl

/-- A number below 16^d is the sum of its d digits by their weights, the highest first. -/
theorem sum_digits {a d : Nat} (h : a < 16 ^ d) :
    ∑ k ∈ Finset.range d, a / 16 ^ (d - 1 - k) % 16 * 16 ^ (d - 1 - k) = a := by
  have hlow : ∀ n, ∑ m ∈ Finset.range n, a / 16 ^ m % 16 * 16 ^ m = a % 16 ^ n := by
    intro n
    induction n with
    | zero => simp [Nat.mod_one]
    | succ n ih => rw [Finset.sum_range_succ, ih, Nat.mod_pow_succ, mul_comm]
  rw [Finset.sum_range_reflect (fun m => a / 16 ^ m % 16 * 16 ^ m) d, hlow, Nat.mod_eq_of_lt h]

/-- FMTH's characters are digits for PARSEH, and the sum of their values is the formatted element. -/
theorem parseh_fmth (rs1 rd : RegIx) (s : State) :
    ∃ t u, exec (.fmth rs1) s = .next t ∧ exec (.parseh rd) t = .next u ∧ readF u rd = readF s rs1 ∧ u.err = 0 := by
  obtain ⟨t, d, ht, hlen, hd, hchar, -, -⟩ := fmth_completes rs1 s
  subst hlen
  have hcap : t.len.toNat ≤ 256 := by rw [hd]; exact (length_hexString_le _).trans (by decide)
  have hgood : ∀ k, k < t.len.toNat →
      HexChar (readByte t.txt k) ((readF s rs1).toNat / 16 ^ (t.len.toNat - 1 - k) % 16) := fun k hk => by
    obtain ⟨nib, rfl, hread⟩ := hchar k hk
    have hnib := Nat.mod_lt ((readF s rs1).toNat / 16 ^ (t.len.toNat - 1 - k)) (by decide : 16 > 0)
    split at hread
    case isTrue hlt => exact .inl ⟨hlt, hread⟩
    case isFalse hge => exact .inr ⟨Nat.le_of_not_lt hge, hnib, .inr hread⟩
  have hsum := sum_digits (hd ▸ lt_pow_length_hexString (readF s rs1))
  obtain ⟨-, hparse⟩ := parsehReadsHexString
  obtain ⟨-, -, hparse⟩ := hparse rd t
  obtain ⟨-, hparse⟩ := hparse _ hcap hgood
  obtain ⟨u, hu, hvalue, -, hdone⟩ := hparse (hsum.trans_lt (readF s rs1).isLt)
  exact ⟨t, u, ht, hu, BitVec.eq_of_toNat_eq (hvalue.trans hsum), hdone.err⟩

/-- Settles O34: `parseb_fmtb` and `parseh_fmth`. -/
theorem textRoundTrips : Obligations.TextRoundTrips := fun rs1 rd s => ⟨parseb_fmtb rs1 rd s, parseh_fmth rs1 rd s⟩

end Sys2Proof.Proofs.TextRoundTrip
end
